-- ==== Sys2Proof/Word.lean ====
section
/-!
DEFINITION. The word types of the block: the widths of `00_scope.md` R5 and `10_state.md` R10, and the level of a
bus wire.
-/

namespace Sys2Proof

/-- A level of a bus wire, or a one-bit datum sampled from it or driven onto it: `true` is 1 (HIGH), `false` is 0 (LOW)
(R7). -/
abbrev Level := Bool

/-- A stimulus word `W[11:0]` (R60). -/
abbrev StimWord := BitVec 12

/-- An 8-bit key code (R5, R63). -/
abbrev KeyCode := BitVec 8

/-- The 16-bit status word (R5, R11). -/
abbrev StatusWord := BitVec 16

/-- The 32-bit write buffer (R5, R13). -/
abbrev WriteWord := BitVec 32

/-- The 6-bit edge counter (R14). -/
abbrev EdgeCount := BitVec 6

end Sys2Proof
end

