-- ==== Sys2Proof/Config.lean ====
section
/-!
DEFINITION. The implementation parameters of `00_scope.md` R6 and the free values of the model. A parameter is a
field of `Config`, which State carries unchanged, so that a statement about every state is about every setting; a
free value is an `opaque` constant with no body, of which nothing can be proved but what holds for every value.
-/

namespace Sys2Proof

/-- A polarity of a clock edge (R6, R81). READ_EDGE = rising and WRITE_EDGE = falling are fixed by R6 and are written
into the meanings of `RISE` and `FALL`. -/
inductive Edge where
  | rising
  | falling
  deriving DecidableEq, Repr

/-- IDLE_EDGE_ACTION of R6: what a clock edge does to the data line while `MODE = Idle` (R104). -/
inductive IdleEdgeAction where
  /-- The line is returned to input-listening. -/
  | release
  /-- Nothing is done to the line. -/
  | none
  /-- The line is held at PASSIVE_LEVEL. -/
  | drivePassive
  deriving DecidableEq, Repr

/-- The parameters of R6 that a rule reads. -/
structure Config where
  /-- SYNC_EDGE: the polarity the synchroniser arms on (R81). -/
  syncEdge : Edge
  /-- SYNC_LEVEL: the expected steady-state clock level (R82). -/
  syncLevel : Level
  /-- RESYNC_EACH_TXN: whether every transaction begins with a synchronisation (R122). -/
  resyncEachTxn : Bool
  /-- KEY_INVERT: whether the key byte is complemented (R127). -/
  keyInvert : Bool
  /-- IDLE_EDGE_ACTION (R104). -/
  idleEdgeAction : IdleEdgeAction
  /-- PASSIVE_LEVEL, read only under `drivePassive` (R104). -/
  passiveLevel : Level
  deriving DecidableEq, Repr

/-- PASSIVE_LEVEL as R6 leaves it: OPEN, no value given (`91_not_in_source.md` N8). -/
opaque Config.openPassiveLevel : Level

/-- The defaults of R6. RESYNC_EACH_TXN is OPEN in R6; `false` is the setting under which `95_test_vectors.md` gives its
vectors (DESIGN CHOICE, unsafe for a claim about runs from `State.reset` only: log 5). -/
def Config.standard : Config :=
  { syncEdge := .rising, syncLevel := true, resyncEachTxn := false, keyInvert := false,
    idleEdgeAction := .release, passiveLevel := Config.openPassiveLevel }

/-- T_SYNC_SETTLE of R6: OPEN; no rule of the untimed model reads it (R159). -/
opaque Config.tSyncSettle : Nat

/-- T_RD_SETTLE of R6: OPEN; no rule of the untimed model reads it (R159). -/
opaque Config.tRdSettle : Nat

/-- The value SR has after the n-th reset: any value (R171). -/
opaque Config.unspecSR : Nat → StatusWord

/-- The value WB has after the n-th reset: any value (R171). -/
opaque Config.unspecWB : Nat → WriteWord

/-- The value EC has after the n-th reset: any value (R171). -/
opaque Config.unspecEC : Nat → EdgeCount

/-- The value DOUT has after the n-th reset: any value (R171). -/
opaque Config.unspecDOUT : Nat → Level

/-- Which of several waiting callers the n-th free choice takes: any (`93_implementation_defined.md` U6, R56). -/
opaque Config.callerChosen : Nat → Nat

end Sys2Proof
end

