-- ==== Sys2Proof/Syntax.lean ====
section
/-!
DEFINITION. The eight operations of `30_encoding.md` R62, one constructor per row of `opcode_table.json`, and the
reasons a word spells none of them (R64).
-/

namespace Sys2Proof

/-- The operations of R62: four host commands, three bus-side events, reset. -/
inductive Instr where
  /-- `INIT` (R121). -/
  | init
  /-- `SYNC` (R80). -/
  | sync
  /-- `RDST` (R124). -/
  | rdst
  /-- `WRKEY k`: `k` is the key code (R125). -/
  | wrkey (k : KeyCode)
  /-- `RISE d`: `d` is the data line's level sampled after the rising edge (R100). -/
  | rise (d : Level)
  /-- `FALL` (R101). -/
  | fall
  /-- `TMO c`: `c` is the clock's level at the end of the settling delay (R82). -/
  | tmo (c : Level)
  /-- `RESET` (R170). -/
  | reset
  deriving DecidableEq, Repr

/-- The class of R61: the commands are the moves of the caller context (`cls = 0`), the rest are the moves of the edge
context and reset (`cls = 1`). -/
def Instr.isCommand : Instr → Bool
  | .init => true
  | .sync => true
  | .rdst => true
  | .wrkey _ => true
  | .rise _ => false
  | .fall => false
  | .tmo _ => false
  | .reset => false

/-- Why a word spells no operation (R64). -/
inductive Reject where
  /-- `op` is 4 to 7. -/
  | reservedOperation
  /-- A must-be-zero bit of `arg` is not zero (R63). -/
  | argumentNotZero
  /-- A `cls = 1` word on the `CMD` port. -/
  | eventOnCommandPort
  deriving DecidableEq, Repr

end Sys2Proof
end

