-- ==== Sys2Proof/WellFormed.lean ====
section
/-!
DEFINITION. Well-formedness. An `Instr` is well formed by its type: `k` has 8 bits, `d` and `c` one (R63). What can be
ill formed is a word, read as the three fields of `30_encoding.md` R60, and a word on the `CMD` port; the checks are
those of R64. The decoder (Decode.lean) is written from R66 and does not call these checks: that the two agree is a
statement.
-/

namespace Sys2Proof

/-- The fields of a stimulus word (R60). -/
structure Fields where
  cls : Bool
  op : BitVec 3
  arg : BitVec 8
  deriving DecidableEq, Repr

/-- `op` in 4..7 is reserved in either class (R64). -/
def Fields.opAssigned (f : Fields) : Bool := f.op.toNat < 4

/-- The bits of `arg` that must be zero (R63), for an assigned `op`. -/
def Fields.mustBeZero (f : Fields) : BitVec 8 :=
  if f.cls = false ∧ f.op = 3#3 then 0x00#8
  else if f.cls = true ∧ (f.op = 0#3 ∨ f.op = 2#3) then 0xFE#8
  else 0xFF#8

/-- The must-be-zero bits are zero (R63, R64). -/
def Fields.argClear (f : Fields) : Bool := f.arg &&& f.mustBeZero == 0#8

/-- A word on the `CMD` port has `cls = 0` (R60, R64). -/
def Fields.classOfPort (f : Fields) : Bool := !f.cls

/-- The fields spell an operation (R64). -/
def Fields.wellFormed (f : Fields) : Bool := f.opAssigned && f.argClear

/-- The fields spell a command that may stand on the `CMD` port (R64). -/
def Fields.wellFormedOnPort (f : Fields) : Bool := f.classOfPort && f.wellFormed

end Sys2Proof
end

