-- ==== Sys2Proof/Decode.lean ====
section
/-!
DEFINITION. The decoder of `30_encoding.md` R66, total on 12-bit words and rejecting by name; the decoder of the `CMD`
port (R60, R64); and after them the encoder, R62's word column.
-/

namespace Sys2Proof

/-- `W[11]` (R60). -/
def clsOf (w : StimWord) : Bool := w.getLsbD 11

/-- `W[10:8]` (R60). -/
def opOf (w : StimWord) : BitVec 3 := w.extractLsb' 8 3

/-- `W[7:0]` (R60). -/
def argOf (w : StimWord) : BitVec 8 := w.extractLsb' 0 8

/-- The three fields of a word (R60). -/
def fieldsOf (w : StimWord) : Fields := { cls := clsOf w, op := opOf w, arg := argOf w }

/-- The decoder of R66. -/
def decode (w : StimWord) : Except Reject Instr :=
  let cls := clsOf w
  let op := opOf w
  let arg := argOf w
  if cls = false ∧ op = 0#3 ∧ arg = 0#8 then .ok .init
  else if cls = false ∧ op = 1#3 ∧ arg = 0#8 then .ok .sync
  else if cls = false ∧ op = 2#3 ∧ arg = 0#8 then .ok .rdst
  else if cls = false ∧ op = 3#3 then .ok (.wrkey arg)
  else if cls = true ∧ op = 0#3 ∧ arg.extractLsb' 1 7 = 0#7 then .ok (.rise (arg.getLsbD 0))
  else if cls = true ∧ op = 1#3 ∧ arg = 0#8 then .ok .fall
  else if cls = true ∧ op = 2#3 ∧ arg.extractLsb' 1 7 = 0#7 then .ok (.tmo (arg.getLsbD 0))
  else if cls = true ∧ op = 3#3 ∧ arg = 0#8 then .ok .reset
  else if op.toNat < 4 then .error .argumentNotZero
  else .error .reservedOperation

/-- The decoder of the `CMD` port: "A word with `cls = 1` presented on the `CMD` port is reserved" (R60, R64). -/
def decodeOnPort (w : StimWord) : Except Reject Instr :=
  if clsOf w then .error .eventOnCommandPort else decode w

/-- The encoder: R62's word column, `cls ‖ op ‖ arg`. -/
def encode : Instr → StimWord
  | .init => 0x000#12
  | .sync => 0x100#12
  | .rdst => 0x200#12
  | .wrkey k => 0x3#4 ++ k
  | .rise d => 0x400#11 ++ BitVec.ofBool d
  | .fall => 0x900#12
  | .tmo c => 0x500#11 ++ BitVec.ofBool c
  | .reset => 0xB00#12

/-- The `word` column of an instruction's row in R62, its operand bits at 0. -/
def rowWord : Instr → StimWord
  | .init => 0x000#12
  | .sync => 0x100#12
  | .rdst => 0x200#12
  | .wrkey _ => 0x300#12
  | .rise _ => 0x800#12
  | .fall => 0x900#12
  | .tmo _ => 0xA00#12
  | .reset => 0xB00#12

/-- The `mask` column of an instruction's row in R62. -/
def rowMask : Instr → StimWord
  | .init => 0xFFF#12
  | .sync => 0xFFF#12
  | .rdst => 0xFFF#12
  | .wrkey _ => 0xF00#12
  | .rise _ => 0xFFE#12
  | .fall => 0xFFF#12
  | .tmo _ => 0xFFE#12
  | .reset => 0xFFF#12

/-- The word that a table row's bits spell: the row has one 12-bit word (R60), and the bits above `nbits` are 0. -/
def tableWord (nbits w : Nat) : StimWord := BitVec.ofNat 12 (w % 2 ^ nbits)

/-- The instruction the decoder reads from `nbits` bits `w` numbered as `opcode_table.json` numbers them. A number that
does not fit the 12 bits of R60 is no stimulus word. -/
def decodeTableWord (nbits w : Nat) : Option Instr :=
  if w % 2 ^ nbits < 2 ^ 12 then
    match decode (tableWord nbits w) with
    | .ok i => some i
    | .error _ => none
  else none

end Sys2Proof
end

