-- ==== Sys2Proof/Machine/State.lean ====
section
/-!
DEFINITION. The state of the machine: the nine registers of `10_state.md` R10, and the model's own fields (the
configuration of R6, the stimuli yet to come, the commands being presented, the counter of free values). The
reasons a step can stop, and the state after reset.
-/

namespace Sys2Proof.Machine

/-- MODE, the BusMode (R15): "Exactly one active at a time". -/
inductive BusMode where
  | idle
  | syncing
  | reading
  | writing
  deriving DecidableEq, Repr

/-- The direction of a transaction (R17, R123). -/
inductive Dir where
  | read
  | write
  deriving DecidableEq, Repr

/-- SPH, the phase of a synchronisation attempt (R18). -/
inductive SyncPhase where
  | armed
  | settling
  deriving DecidableEq, Repr

/-- The faults of the machine: there are none. "The block raises no synchronous exception, has no cause codes" (R150);
"There is no *fault* outcome" (R161). The type has no constructor, so no step can fault. -/
inductive Fault where
  deriving DecidableEq, Repr

/-- The reasons a step gives no next state. -/
inductive Refusal where
  /-- Raised by an arm of `exec` for an instruction that has no meaning yet; no arm raises it. Safe. -/
  | notModelled (mnemonic : String)
  /-- Raised by `step` on a reserved word: "a model refuses the run at that point rather than give it a meaning" (R64,
  U5). Safe. -/
  | reservedWord (why : Reject)
  /-- Raised by `TMO` when no settle timer is running: "in every other state the timer is not running and the stimulus
  cannot occur" (R82, R161, U14). Safe. -/
  | timerNotRunning
  deriving DecidableEq, Repr

/-- What the world outside the block does next (R50, R68, R176). -/
inductive Stimulus where
  /-- A word of the trace: an operation of R62, or a reserved word (R64). -/
  | word (w : StimWord)
  /-- The host takes back the command that the `caller`-th of the waiting callers presents: it "may ... withdraw before
  acceptance" (R176). No operation of the block; the block does nothing (log 2). -/
  | withdraw (caller : Nat)
  deriving DecidableEq, Repr

/-- The state. The first nine fields are the complete state of the block (R10). -/
structure State where
  /-- SR, the StatusRegister (R11). -/
  sr : StatusWord
  /-- WB, the WriteBuffer (R13). -/
  wb : WriteWord
  /-- EC, the EdgeCounter (R14). -/
  ec : EdgeCount
  /-- MODE, the BusMode (R15). -/
  mode : BusMode
  /-- LOCK, the SyncLatch (R16). -/
  lock : Bool
  /-- PEND, the direction of a call whose synchronisation is still running (R17); `none` is the spec's None. -/
  pend : Option Dir
  /-- SPH (R18). -/
  sph : SyncPhase
  /-- DOE: whether the block drives the data line (R19). -/
  doe : Bool
  /-- DOUT: the level driven while DOE is 1 (R19). -/
  dout : Level
  /-- The model's own: the parameters of R6. No step changes them (log 5). -/
  cfg : Config
  /-- The model's own: what the outside world does from here on, in its total order (R50, R68; log 1). -/
  stim : List Stimulus
  /-- The model's own: the words that host-side callers are presenting on the `CMD` port and that have not been accepted
  (R22, R56, R120; log 2). -/
  presented : List StimWord
  /-- The model's own: how many free values have been drawn (log 4). -/
  draws : Nat
  deriving DecidableEq, Repr

/-- The state right after reset (R28, R170). SR, WB, EC and DOUT are unspecified (R171): the free values of draw 0 (log 3).
No stimulus is pending and no command is presented (log 1, log 2). -/
def State.reset : State :=
  { sr := Config.unspecSR 0, wb := Config.unspecWB 0, ec := Config.unspecEC 0,
    mode := .idle, lock := false, pend := none, sph := .armed,
    doe := false, dout := Config.unspecDOUT 0,
    cfg := Config.standard, stim := [], presented := [], draws := 1 }

end Sys2Proof.Machine
end

