-- ==== Sys2Proof/Machine/Operands.lean ====
section
/-!
DEFINITION. The operand forms and the whole arithmetic of the block (`41_frame_engine.md` R109): the payload byte and
its fourfold repetition, the bit of the write buffer that an edge drives, the shift of a sampled bit into the status
register, the step of the edge counter.
-/

namespace Sys2Proof.Machine

/-- `Payload(k)`: the byte put in the write buffer for key code `k` (R127). -/
def payload (keyInvert : Bool) (k : KeyCode) : BitVec 8 := if keyInvert then k ^^^ 0xFF#8 else k

/-- `rep4(b) = b ‖ b ‖ b ‖ b` (R7). -/
def rep4 (b : BitVec 8) : WriteWord := b ++ b ++ b ++ b

/-- `((SR << 1) | zext_16(d))[15:0]`: a sampled bit enters at bit 0, old `SR[15]` is dropped (R42, R102). -/
def shiftIn (sr : StatusWord) (d : Level) : StatusWord := (sr <<< 1) ||| (BitVec.ofBool d).setWidth 16

/-- `(WB >> (31 - EC)) & 1 = WB[31 - EC]` (R42, R103). `EC <= 31` whenever it is used (R24 (b)); above 31, which no run
reaches, the subtraction stops at 0 (DESIGN CHOICE, safe: log 10). -/
def driveBit (wb : WriteWord) (ec : EdgeCount) : Level := (wb >>> (31 - ec.toNat)).getLsbD 0

/-- `n = EC + 1` on the 6-bit counter (R109). -/
def nextCount (ec : EdgeCount) : EdgeCount := ec + 1#6

end Sys2Proof.Machine
end

