-- ==== Sys2Proof/Machine/Flags.lean ====
section
/-!
DEFINITION. The status flags (`10_state.md` R21), the binary codes of the enumerated registers (R10), the conditions
the rules test, and the ports (R22, R71). Every output is a function of the state; reading one has no side effect
(R49).
-/

namespace Sys2Proof.Machine

/-- The code of MODE (R10). -/
def modeCode : BusMode → BitVec 2
  | .idle => 0#2
  | .syncing => 1#2
  | .reading => 2#2
  | .writing => 3#2

/-- The code of PEND: a pending direction has the code of the mode it becomes (R10). -/
def pendCode : Option Dir → BitVec 2
  | none => 0#2
  | some .read => 2#2
  | some .write => 3#2

/-- The code of SPH (R10). -/
def phaseCode : SyncPhase → BitVec 1
  | .armed => 0#1
  | .settling => 1#1

/-- The mode that a direction becomes (R82, R123). -/
def dirMode : Dir → BusMode
  | .read => .reading
  | .write => .writing

/-- The mode a locking `TMO` sets, by PEND (R82). -/
def lockedMode : Option Dir → BusMode
  | none => .idle
  | some p => dirMode p

/-- `BUSY`: the function `MODE != Idle` (R21). -/
def State.busy (s : State) : Bool := s.mode != .idle

/-- `CMD_READY`: equals `MODE = Idle` (R22). -/
def State.cmdReady (s : State) : Bool := s.mode == .idle

/-- The settle timer is running: `MODE = Syncing` and `SPH = Settling` (R27); the condition under which `TMO` is enabled
(R82). -/
def State.settling (s : State) : Bool := s.mode == .syncing && s.sph == .settling

/-- `NeedSync = RESYNC_EACH_TXN or LOCK = 0` (R122). -/
def State.needSync (s : State) : Bool := !s.lock || s.cfg.resyncEachTxn

/-- The output ports (R22), the tuple of R71. -/
structure Ports where
  dataOe : Bool
  dataOut : Level
  cmdReady : Bool
  busy : Bool
  lockOut : Bool
  modeOut : BitVec 2
  ecOut : BitVec 6
  statusOut : BitVec 16
  deriving DecidableEq, Repr

/-- What the state shows (R22, R71). -/
def State.ports (s : State) : Ports :=
  { dataOe := s.doe, dataOut := s.dout, cmdReady := s.cmdReady, busy := s.busy, lockOut := s.lock,
    modeOut := modeCode s.mode, ecOut := s.ec, statusOut := s.sr }

/-- The labels of the status bits after an aligned read (R12). They are labels only: no rule gives them a meaning (R2). -/
inductive StatusLabel where
  | zone1 | zone2 | zone3 | zone4 | zone5 | zone6 | zone7 | zone8
  | ready | armed | memory | bypass | trouble | reservedHigh | reservedLow | beep
  deriving DecidableEq, Repr

/-- The bit of SR that a label names (R12). -/
def labelBit : StatusLabel → Nat
  | .zone1 => 15
  | .zone2 => 14
  | .zone3 => 13
  | .zone4 => 12
  | .zone5 => 11
  | .zone6 => 10
  | .zone7 => 9
  | .zone8 => 8
  | .ready => 7
  | .armed => 6
  | .memory => 5
  | .bypass => 4
  | .trouble => 3
  | .reservedHigh => 2
  | .reservedLow => 1
  | .beep => 0

/-- The status bit under a label (R12). -/
def State.statusBit (s : State) (l : StatusLabel) : Bool := s.sr.getLsbD (labelBit l)

end Sys2Proof.Machine
end

