-- ==== Sys2Proof/Machine/Ops.lean ====
section
/-!
DEFINITION. The procedures the operations share. Each is one atomic change of the state: every read sees the state
before it (`00_scope.md` R8). The block raises no exception and has no memory (R150, R10), so there is no exception
entry, no return from one and no memory access among them; what the spec calls its "trap entry", the dispatch of an
edge by MODE (R154), stands in the meanings of `RISE` and `FALL`.
-/

namespace Sys2Proof.Machine

/-- `Release()`: `DOE <- 0`; DOUT keeps its value (R8). -/
def State.release (s : State) : State := { s with doe := false }

/-- `Drive(v)`: `DOE <- 1; DOUT <- v` (R8). -/
def State.drive (v : Level) (s : State) : State := { s with doe := true, dout := v }

/-- `StartSync(p)` (R83). -/
def startSync (p : Option Dir) (s : State) : State :=
  { s with lock := false, pend := p, sph := .armed, mode := .syncing }

/-- `StartTxn(p)` (R123). -/
def startTxn (p : Dir) (s : State) : State :=
  if s.needSync then startSync (some p) s else { s with mode := dirMode p }

/-- `SyncEdge(pol)`: what a clock edge does while `MODE = Syncing` (R81). -/
def syncEdge (pol : Edge) (s : State) : State :=
  if s.sph = .armed ∧ pol = s.cfg.syncEdge then { s with sph := .settling } else s

/-- What an enabled `TMO c` does: it locks, or the attempt fails and the handler is armed again (R82). -/
def settleExpire (c : Level) (s : State) : State :=
  if c = s.cfg.syncLevel then
    { s with lock := true, sph := .armed, mode := lockedMode s.pend, pend := none }
  else { s with sph := .armed }

/-- `ReadBit(d)`: one bit of a read (R102). -/
def readBit (d : Level) (s : State) : State :=
  let n := nextCount s.ec
  { s.release with sr := shiftIn s.sr d, ec := n, mode := if n = 16#6 then .idle else s.mode }

/-- `WriteBit()`: one bit of a write (R103). -/
def writeBit (s : State) : State :=
  let b := driveBit s.wb s.ec
  let n := nextCount s.ec
  { s.drive b with ec := n, mode := if n = 32#6 then .idle else s.mode }

/-- `IdleEdge()`: a clock edge of either polarity while `MODE = Idle` (R104). -/
def idleEdge (s : State) : State :=
  match s.cfg.idleEdgeAction with
  | .release => s.release
  | .none => s
  | .drivePassive => s.drive s.cfg.passiveLevel

/-- The hold of R120: a command presented while `MODE != Idle` "has no step, changes nothing, is not lost": its word goes
on being presented. -/
def hold (i : Instr) (s : State) : State := { s with presented := s.presented ++ [encode i] }

/-- The host withdraws the command of the `k`-th waiting caller (R176): its word is presented no more; the block does
nothing. -/
def withdraw (k : Nat) (s : State) : State := { s with presented := s.presented.eraseIdx k }

/-- Acceptance (R120): a command has its effect in a step in which `MODE = Idle`, and is held in every other. -/
def accept (i : Instr) (effect : State → State) (s : State) : Host.Outcome State Fault Refusal :=
  .next (if s.mode = .idle then effect s else hold i s)

/-- `SR, WB, EC, DOUT <- unspecified` (R170, R171): the free values of the next draw. -/
def drawUnspecified (s : State) : State :=
  { s with sr := Config.unspecSR s.draws, wb := Config.unspecWB s.draws, ec := Config.unspecEC s.draws,
           dout := Config.unspecDOUT s.draws, draws := s.draws + 1 }

end Sys2Proof.Machine
end

