-- ==== Sys2Proof/Machine/FrameEngine.lean ====
section
/-!
DEFINITION. The Frame State Machine (`41_frame_engine.md`): the meanings of the clock edges `RISE` and `FALL`, routed by
MODE as `60_exceptions.md` R154 says. An edge is always enabled.
-/

namespace Sys2Proof.Machine

/-- `RISE d` (R100). Writing is off phase: no change (R105). -/
def execRise (d : Level) (s : State) : Host.Outcome State Fault Refusal :=
  .next (match s.mode with
    | .syncing => syncEdge .rising s
    | .reading => readBit d s
    | .writing => s
    | .idle => idleEdge s)

/-- `FALL` (R101). Reading is off phase: no change (R105). -/
def execFall (s : State) : Host.Outcome State Fault Refusal :=
  .next (match s.mode with
    | .syncing => syncEdge .falling s
    | .reading => s
    | .writing => writeBit s
    | .idle => idleEdge s)

end Sys2Proof.Machine
end

