-- ==== Sys2Proof/Machine/Gate.lean ====
section
/-!
DEFINITION. The Transaction Gate (`42_transaction_gate.md`): the meanings of `INIT`, `RDST` and `WRKEY`.
-/

namespace Sys2Proof.Machine

/-- `INIT` (R121): the line is released and a synchronisation starts. -/
def execInit (s : State) : Host.Outcome State Fault Refusal :=
  accept .init (fun t => startSync none t.release) s

/-- `RDST` (R124): EC and SR are cleared and a read starts. -/
def execRdst (s : State) : Host.Outcome State Fault Refusal :=
  accept .rdst (fun t => startTxn .read { t with ec := 0#6, sr := 0#16 }) s

/-- `WRKEY k` (R125): the write buffer is built, EC is cleared and a write starts. -/
def execWrkey (k : KeyCode) (s : State) : Host.Outcome State Fault Refusal :=
  accept (.wrkey k) (fun t => startTxn .write { t with wb := rep4 (payload t.cfg.keyInvert k), ec := 0#6 }) s

end Sys2Proof.Machine
end

