-- ==== Sys2Proof/Machine/Reset.lean ====
section
/-!
DEFINITION. Reset (`70_reset_and_hazards.md`): the meaning of `RESET`.
-/

namespace Sys2Proof.Machine

/-- `RESET` (R170): enabled in every state. The transaction-scoped registers and DOUT become unspecified (R171); a command
being presented is not consumed. -/
def execReset (s : State) : Host.Outcome State Fault Refusal :=
  .next { drawUnspecified s with mode := .idle, lock := false, pend := none, sph := .armed, doe := false }

end Sys2Proof.Machine
end

