-- ==== Sys2Proof/Machine/Synchronizer.lean ====
section
/-!
DEFINITION. The Synchronizer (`40_synchronizer.md`): the meanings of `SYNC` and `TMO`.
-/

namespace Sys2Proof.Machine

/-- `SYNC` (R80): when accepted the lock is dropped and acquired afresh, whatever it was. -/
def execSync (s : State) : Host.Outcome State Fault Refusal :=
  accept .sync (startSync none) s

/-- `TMO c` (R82): enabled only while an attempt is settling; in every other state the stimulus cannot occur (R87, R161). -/
def execTmo (c : Level) (s : State) : Host.Outcome State Fault Refusal :=
  if s.settling then .next (settleExpire c s) else .refused .timerNotRunning

end Sys2Proof.Machine
end

