-- ==== Sys2Proof/Machine/Dispatch.lean ====
section
/-!
DEFINITION. The meaning of every operation: one arm per constructor of Instr.
-/

namespace Sys2Proof.Machine

def exec (i : Instr) (s : State) : Host.Outcome State Fault Refusal :=
  match i with
  | .init => Sys2Proof.Machine.execInit s
  | .sync => Sys2Proof.Machine.execSync s
  | .rdst => Sys2Proof.Machine.execRdst s
  | .wrkey k => Sys2Proof.Machine.execWrkey k s
  | .rise d => Sys2Proof.Machine.execRise d s
  | .fall => Sys2Proof.Machine.execFall s
  | .tmo c => Sys2Proof.Machine.execTmo c s
  | .reset => Sys2Proof.Machine.execReset s

end Sys2Proof.Machine
end

