-- ==== Sys2Proof/Machine/Fetch.lean ====
section
/-!
DEFINITION. Where the next stimulus comes from. The block fetches no instructions (`10_state.md` R20); a run is a
sequence of stimuli (`30_encoding.md` R68), and a held command takes effect "at the first later point of the trace
where `MODE = Idle`, before the stimulus written there".
-/

namespace Sys2Proof.Machine

/-- What the next step meets. -/
inductive Fetched where
  /-- No stimulus occurs. -/
  | nothing
  /-- The word of the `caller`-th waiting caller on the `CMD` port, taken from `presented`. -/
  | onPort (caller : Nat) (w : StimWord) (s : State)
  /-- The next word of the trace, taken from `stim`. -/
  | inTrace (w : StimWord) (s : State)
  /-- The host has withdrawn the command of the `caller`-th waiting caller. -/
  | withdrawn (caller : Nat) (s : State)
  deriving DecidableEq, Repr

/-- The caller whose word is on the port when the block can accept one: the only one there is, or, of several, any
(R56, U6: a free value). Answers its place among the callers, its word, the words still presented, and the counter of
free values. -/
def chooseCaller : List StimWord → Nat → Option (Nat × StimWord × List StimWord × Nat)
  | [], _ => none
  | [w], n => some (0, w, [], n)
  | v :: w :: ws, n =>
    let k := Config.callerChosen n % (ws.length + 2)
    some (k, (v :: w :: ws).getD k v, (v :: w :: ws).eraseIdx k, n + 1)

/-- What the outside world does next: the next word of the trace, or a withdrawal by the host (R68, R176). -/
def fetchTrace (s : State) : Fetched :=
  match s.stim with
  | [] => .nothing
  | .word w :: ws => .inTrace w { s with stim := ws }
  | .withdraw k :: ws => .withdrawn k (withdraw k { s with stim := ws })

/-- The next stimulus: a presented command as soon as `MODE = Idle` (R120, R68), else what the outside world does next.
While `MODE != Idle` the port is not looked at, so a reserved word that stands there is refused only when it is taken at
Idle, and never if the host withdraws it before: R64 says that the run is refused and does not say when (DESIGN CHOICE,
log 7). -/
def fetch (s : State) : Fetched :=
  match s.mode with
  | .idle =>
    match chooseCaller s.presented s.draws with
    | some (k, w, ws, n) => .onPort k w { s with presented := ws, draws := n }
    | none => fetchTrace s
  | _ => fetchTrace s

/-- `CMD`: the word that the host presents on the port in the step from this state, if it presents one (R22): that of a
waiting caller or, when nobody waits, the `cls = 0` word that the trace puts there in this step (R60, log 1). Which of
several waiting words stands on the port is left open (U6): it is the one that would be accepted (log 2). -/
def State.cmd (s : State) : Option StimWord :=
  match chooseCaller s.presented s.draws with
  | some (_, w, _, _) => some w
  | none =>
    match s.stim with
    | [] => none
    | .word w :: _ => if clsOf w then none else some w
    | .withdraw _ :: _ => none

/-- `CMD_VALID`: the host presents a command word (R22). -/
def State.cmdValid (s : State) : Bool := s.cmd.isSome

/-- The state with the word `w` placed where `fetch` takes its next stimulus. A presented command would go first when
`MODE = Idle`; then the host withdraws it, which it may (R176). -/
def placeNext (w : StimWord) (s : State) : State :=
  { s with stim := .word w :: s.stim, presented := match s.mode with | .idle => [] | _ => s.presented }

end Sys2Proof.Machine
end

