-- ==== Sys2Proof/Machine/Step.lean ====
section
/-!
DEFINITION. One step of the machine: the next stimulus is decoded and takes its one atomic step (`20_memory.md` R50).
-/

namespace Sys2Proof.Machine

/-- A decoded stimulus runs; a reserved word is refused (`30_encoding.md` R64). -/
def runDecoded (r : Except Reject Instr) (s : State) : Host.Outcome State Fault Refusal :=
  match r with
  | .ok i => exec i s
  | .error why => .refused (.reservedWord why)

/-- One step. With no stimulus nothing happens: a stalled environment is a hang, not a fault (R107, R152; log 9);
a withdrawal by the host changes nothing but what is presented (R176; log 2). -/
def step (s : State) : Host.Outcome State Fault Refusal :=
  match fetch s with
  | .nothing => .next s
  | .onPort _ w t => runDecoded (decodeOnPort w) t
  | .inTrace w t => runDecoded (decode w) t
  | .withdrawn _ t => .next t

/-- The state in which the very next step takes the table's word `w` (log 1). -/
def State.withFetchWord (s : State) (nbits w : Nat) : State := placeNext (tableWord nbits w) s

end Sys2Proof.Machine
end

