-- ==== Sys2Proof/Machine/Keycode.lean ====
section
/-!
DEFINITION. The Keycode Encoder's contract (`43_keycode_encoder.md`). The encoder is outside the block and its table is
in no document (R145), so it is any function that meets the contract; the block never evaluates it (R140).
-/

namespace Sys2Proof.Machine

/-- The alphabet: "digits 0–9, `*`, `#`, `F`, `E`, `P`" (R141). -/
def keyAlphabet : List Char := ['0', '1', '2', '3', '4', '5', '6', '7', '8', '9', '*', '#', 'F', 'E', 'P']

/-- The R positions of a matrix byte: bit 7 and bits 3:0 (R143). -/
def rowPositions : List Nat := [7, 3, 2, 1, 0]

/-- The C positions of a matrix byte: bits 6:4 (R143). -/
def columnPositions : List Nat := [6, 5, 4]

/-- How many of the positions are selected: "0 in a position means selected" (R144). -/
def selectedAmong (ps : List Nat) (b : BitVec 8) : Nat := (ps.filter fun p => !b.getLsbD p).length

/-- "Exactly one 0 among its five R positions and exactly one 0 among its three C positions" (R144). -/
def oneHotPerAxis (b : BitVec 8) : Bool :=
  selectedAmong rowPositions b == 1 && selectedAmong columnPositions b == 1

/-- What the spec says of `Enc` (R141, R142, R144), and all that it says (R145). -/
structure EncoderContract (enc : Char → KeyCode) : Prop where
  /-- "Unknown input maps to 0x00." (R142) -/
  unknown : ∀ c, c ∉ keyAlphabet → enc c = 0x00#8
  /-- The byte of a key has one position selected on each axis (R144). -/
  known : ∀ c, c ∈ keyAlphabet → oneHotPerAxis (enc c) = true

end Sys2Proof.Machine
end

