-- ==== Sys2Proof/Machine/Trace.lean ====
section
/-!
DEFINITION. Sequences of stimuli: the pseudo-operations of `30_encoding.md` R69, the order of coincident stimuli of
`60_exceptions.md` R156, and what the meanings of a sequence, one after the other, do to a state.
-/

namespace Sys2Proof.Machine

/-- The bits of a status mask in the order they travel, `m[15]` first (R42). -/
def statusBits (m : StatusWord) : List Level := (List.range 16).map fun i => m.getLsbD (15 - i)

/-- The bits of a write buffer in the order they travel, `WB[31]` first (R42). -/
def writeBits (w : WriteWord) : List Level := (List.range 32).map fun i => w.getLsbD (31 - i)

/-- The bits of a byte, bit 7 first (R42, R146). -/
def byteBits (b : BitVec 8) : List Level := (List.range 8).map fun i => b.getLsbD (7 - i)

/-- `CYCLE d`: driver phase, then panel phase (R69, R45). -/
def cycle (d : Level) : List Instr := [.fall, .rise d]

/-- `PACKET m`: sixteen cycles carrying `m[15]` first (R69). -/
def packet (m : StatusWord) : List Instr := (statusBits m).flatMap cycle

/-- `CYCLES n` (R69). -/
def cycles (n : Nat) : List Instr := (List.replicate n false).flatMap cycle

/-- The stimulus of an edge whose data level is not looked at (R63). -/
def edgeStimulus : Edge → Instr
  | .rising => .rise false
  | .falling => .fall

/-- `LOCKSEQ`: "in general: the `SYNC_EDGE` edge, then `TMO SYNC_LEVEL`" (R69). -/
def lockSeq (c : Config) : List Instr := [edgeStimulus c.syncEdge, .tmo c.syncLevel]

/-- `MISS`, for `SYNC_EDGE = rising` and `SYNC_LEVEL = 1` (R69). -/
def miss : List Instr := [.rise false, .fall, .tmo false]

/-- Failed attempts of a synchronisation, one after the other: the armed edge, any `edges` while the attempt settles, which
are dropped (R81), and a `TMO` that samples the wrong level (R82). `MISS` is the one with a `FALL` between (R69). -/
def missedAttempts (c : Config) (edges : List (List Instr)) : List Instr :=
  edges.flatMap fun es => edgeStimulus c.syncEdge :: es ++ [.tmo (!c.syncLevel)]

/-- The rank of a stimulus among coincident ones: `RESET`, then `TMO`, then the clock edge, then a host command (R156). -/
def coincidenceRank : Instr → Nat
  | .reset => 0
  | .tmo _ => 1
  | .rise _ => 2
  | .fall => 2
  | .init => 3
  | .sync => 3
  | .rdst => 3
  | .wrkey _ => 3

/-- Coincident stimuli in the order in which R156 takes them. -/
def orderCoincident (is : List Instr) : List Instr :=
  (List.range 4).flatMap fun r => is.filter fun i => coincidenceRank i == r

/-- The operations as words of a trace (R68). -/
def words (is : List Instr) : List Stimulus := is.map fun i => .word (encode i)

/-- What the meanings of a sequence of operations do, one after the other. A command met while `MODE != Idle` goes on being
presented and is not accepted here: the run of a trace, in which it is accepted at the first Idle state, is `run`. -/
def execAll : List Instr → State → Host.Outcome State Fault Refusal
  | [], s => .next s
  | i :: is, s =>
    match exec i s with
    | .next t => execAll is t
    | .fault r => .fault r
    | .refused r => .refused r

end Sys2Proof.Machine
end

