-- ==== Sys2Proof/Machine/Run.lean ====
section
/-!
DEFINITION. Runs: steps one after the other, with held commands accepted where `30_encoding.md` R68 says, what the
wires show during a run (R71), and whether SR holds the result of a read (`10_state.md` R25).
-/

namespace Sys2Proof.Machine

/-- So many steps (R50). A run whose outside world has nothing more to do stays where it is (log 9). -/
def run : Nat → State → Host.Outcome State Fault Refusal
  | 0, s => .next s
  | n + 1, s =>
    match step s with
    | .next t => run n t
    | .fault r => .fault r
    | .refused r => .refused r

/-- The operation that the next step takes, if it takes one. -/
def taken (s : State) : Option Instr :=
  match fetch s with
  | .nothing => none
  | .onPort _ w _ => (decodeOnPort w).toOption
  | .inTrace w _ => (decode w).toOption
  | .withdrawn _ _ => none

/-- The wire trace of so many steps: `(DATA_OE, DATA_OUT)` after each `FALL` step (R71). -/
def wireTrace : Nat → State → List (Bool × Level)
  | 0, _ => []
  | n + 1, s =>
    match step s with
    | .next t => (if taken s = some .fall then [(t.ports.dataOe, t.ports.dataOut)] else []) ++ wireTrace n t
    | .fault _ => []
    | .refused _ => []

/-- The captured output sequence of so many steps: DATA_OUT over the `FALL` steps taken with `MODE = Writing` (R71). -/
def captured : Nat → State → List Level
  | 0, _ => []
  | n + 1, s =>
    match step s with
    | .next t => (if taken s = some .fall ∧ s.mode = .writing then [t.ports.dataOut] else []) ++ captured n t
    | .fault _ => []
    | .refused _ => []

/-- Whether SR holds the result of a read after stimulus `i`, when `held` says whether it did before: the sixteenth `RISE`
of a read makes it a result, an accepted `RDST` destroys it (R25), `RESET` makes it unspecified (R171). -/
def resultHeldAfter (held : Bool) (i : Instr) (s : State) : Bool :=
  match i with
  | .rise _ => if s.mode = .reading then nextCount s.ec == 16#6 else held
  | .rdst => if s.mode = .idle then false else held
  | .reset => false
  | .init => held
  | .sync => held
  | .wrkey _ => held
  | .fall => held
  | .tmo _ => held

/-- Whether SR holds the result of a read after the next step (R25). -/
def resultHeldNext (held : Bool) (s : State) : Bool :=
  match taken s with
  | some i => resultHeldAfter held i s
  | none => held

end Sys2Proof.Machine
end

