-- ==== Sys2Proof/Machine/Calls.lean ====
section
/-!
DEFINITION. The public operations as calls (`42_transaction_gate.md` R130 to R134): "A *call* is a command followed by a
wait." A call runs over what the outside world does in `stim`, other callers' commands and withdrawals included; the
block offers no deadline, so the number of steps the caller is watched for is an argument and no part of the call.
-/

namespace Sys2Proof.Machine

/-- The calls: `init()`, `writeKey(character)`, `readStatus()` (= `getStatus()`), `synchronize()` (= `sync`). -/
inductive Call where
  | init
  | writeKey (c : Char)
  | readStatus
  | synchronize
  deriving DecidableEq, Repr

/-- The command a call presents (R130 to R133); `Enc` is the encoder's (R140). -/
def callCommand (enc : Char → KeyCode) : Call → Instr
  | .init => .init
  | .writeKey c => .wrkey (enc c)
  | .readStatus => .rdst
  | .synchronize => .sync

/-- Where a call's own command stands: presented and waiting at a place among the callers, accepted, or taken back (R134,
R176). -/
inductive OwnCommand where
  | waiting (caller : Nat)
  | accepted
  | withdrawn
  deriving DecidableEq, Repr

/-- A call in progress: where its command stands, whether SR holds the result of a read that completed since the call began
(R25), and the machine. The first two are what the caller knows and no state of the block (log 15, log 17). -/
structure CallState where
  own : OwnCommand
  resultHeld : Bool
  machine : State
  deriving DecidableEq, Repr

/-- The `k`-th waiting word has left the port: it was the call's own, which is then `gone`, or another caller's. -/
def ownAfterRemoval (gone : OwnCommand) (k p : Nat) : OwnCommand :=
  if k = p then gone else .waiting (if k < p then p - 1 else p)

/-- Where the call's own command stands after a step. -/
def ownAfter (own : OwnCommand) (f : Fetched) : OwnCommand :=
  match own with
  | .accepted => .accepted
  | .withdrawn => .withdrawn
  | .waiting p =>
    match f with
    | .nothing => .waiting p
    | .onPort k _ _ => ownAfterRemoval .accepted k p
    | .inTrace _ _ => .waiting p
    | .withdrawn k _ => ownAfterRemoval .withdrawn k p

/-- The caller presents its command, behind those that wait already (R134). -/
def callStart (enc : Char → KeyCode) (c : Call) (s : State) : CallState :=
  { own := .waiting s.presented.length, resultHeld := false,
    machine := { s with presented := s.presented ++ [encode (callCommand enc c)] } }

/-- The wait is over: the host "proceeds when it reads Idle after its command was accepted" (R134). -/
def callDone (c : CallState) : Bool := c.own == .accepted && c.machine.cmdReady

/-- The busy-wait (R134), watched for at most so many steps: the caller reads MODE after every step (log 15). -/
def callWait : Nat → CallState → Host.Outcome CallState Fault Refusal
  | 0, c => .next c
  | n + 1, c =>
    if callDone c then .next c
    else
      match step c.machine with
      | .next t =>
        callWait n { own := ownAfter c.own (fetch c.machine),
                     resultHeld := resultHeldNext c.resultHeld c.machine, machine := t }
      | .fault r => .fault r
      | .refused r => .refused r

/-- A call: the command, then the wait (R134). -/
def callRun (enc : Char → KeyCode) (c : Call) (n : Nat) (s : State) : Host.Outcome CallState Fault Refusal :=
  callWait n (callStart enc c s)

/-- What a call hands to its caller when its wait is over: `STATUS_OUT` for `readStatus`, nothing for the others (R130 to
R133). After a `RESET` that cut the read short the host must not use `STATUS_OUT` (R176), and nothing is handed over. -/
def callResult : Call → CallState → Option StatusWord
  | .readStatus, c => if callDone c && c.resultHeld then some c.machine.ports.statusOut else none
  | .init, _ => none
  | .writeKey _, _ => none
  | .synchronize, _ => none

end Sys2Proof.Machine
end

