-- ==== Sys2Proof/Safety.lean ====
section
/-!
DEFINITION. What the spec says of whole runs, in the terms the statements use: the invariants of `10_state.md` R24 and
R29, the transition graph of MODE (`41_frame_engine.md` R110), the end of a run (R162), and the obligations of the
environment (`40_synchronizer.md` R87).
-/

namespace Sys2Proof.Safety

open Sys2Proof.Machine

/-- The invariants of R24 (b), (c) and R29 (f) to (j), (l). R24 (a) and R29 (k) hold by the types of MODE and PEND. -/
structure BlockInv (s : State) : Prop where
  /-- R24 (b) -/
  readingBound : s.mode = .reading → s.ec.toNat ≤ 15
  /-- R24 (b) -/
  writingBound : s.mode = .writing → s.ec.toNat ≤ 31
  /-- R24 (c) -/
  lockGates : s.mode = .reading ∨ s.mode = .writing → s.lock = true
  /-- R29 (f) -/
  pendSyncing : s.pend ≠ none → s.mode = .syncing
  /-- R29 (g) -/
  settlingSyncing : s.sph = .settling → s.mode = .syncing
  /-- R29 (h) -/
  syncingUnlocked : s.mode = .syncing → s.lock = false
  /-- R29 (i) -/
  pendCountZero : s.mode = .syncing → s.pend ≠ none → s.ec = 0#6
  /-- R29 (j) -/
  pendReadClear : s.mode = .syncing → s.pend = some .read → s.sr = 0#16
  /-- R29 (l) -/
  readingReleased : s.mode = .reading → 1 ≤ s.ec.toNat → s.doe = false
  /-- R29 (l) -/
  writingDrives : s.mode = .writing → 1 ≤ s.ec.toNat →
    s.doe = true ∧ s.dout = s.wb.getLsbD (32 - s.ec.toNat)

/-- The arrows of the transition graph of MODE, one constructor per row of R110's table. -/
inductive ModeArrow (s : State) : Instr → BusMode → Prop where
  | initSyncing : s.mode = .idle → ModeArrow s .init .syncing
  | syncSyncing : s.mode = .idle → ModeArrow s .sync .syncing
  | rdstSyncing : s.mode = .idle → s.needSync = true → ModeArrow s .rdst .syncing
  | rdstReading : s.mode = .idle → s.needSync = false → ModeArrow s .rdst .reading
  | wrkeySyncing (k : KeyCode) : s.mode = .idle → s.needSync = true → ModeArrow s (.wrkey k) .syncing
  | wrkeyWriting (k : KeyCode) : s.mode = .idle → s.needSync = false → ModeArrow s (.wrkey k) .writing
  | tmoIdle (c : Level) : s.settling = true → c = s.cfg.syncLevel → s.pend = none → ModeArrow s (.tmo c) .idle
  | tmoReading (c : Level) : s.settling = true → c = s.cfg.syncLevel → s.pend = some .read →
      ModeArrow s (.tmo c) .reading
  | tmoWriting (c : Level) : s.settling = true → c = s.cfg.syncLevel → s.pend = some .write →
      ModeArrow s (.tmo c) .writing
  | readDone (d : Level) : s.mode = .reading → s.ec = 15#6 → ModeArrow s (.rise d) .idle
  | writeDone : s.mode = .writing → s.ec = 31#6 → ModeArrow s .fall .idle
  | reset : ModeArrow s .reset .idle

/-- The nine registers of the block (R10) are the same in both states. -/
def SameBlock (s t : State) : Prop :=
  t.sr = s.sr ∧ t.wb = s.wb ∧ t.ec = s.ec ∧ t.mode = s.mode ∧ t.lock = s.lock ∧ t.pend = s.pend ∧
    t.sph = s.sph ∧ t.doe = s.doe ∧ t.dout = s.dout

/-- Edges during a read: before each panel-phase edge any number of off-phase edges (R105); the second component is the
level sampled. -/
def readEdges (ps : List (Nat × Level)) : List Instr :=
  ps.flatMap fun p => List.replicate p.1 .fall ++ [.rise p.2]

/-- Edges during a write: before each driver-phase edge any off-phase edges, with any level on the line (R105). -/
def writeEdges (rs : List (List Level)) : List Instr :=
  rs.flatMap fun ds => ds.map .rise ++ [.fall]

/-- A run that ends in this state is complete: `MODE = Idle` and no command is being presented and held (R162). -/
def complete (s : State) : Bool := s.mode == .idle && s.presented.isEmpty

/-- The level of `CLK` after a stimulus: the polarity of the latest clock edge (R87 (b)). A ghost, no state of the block. -/
def clockAfter (clk : Level) : Instr → Level
  | .rise _ => true
  | .fall => false
  | .init => clk
  | .sync => clk
  | .rdst => clk
  | .wrkey _ => clk
  | .tmo _ => clk
  | .reset => clk

/-- A stimulus the environment may produce when `CLK` stands at `clk`: a clock edge changes the level (R22, R181), and a
`TMO` comes only from a running timer and carries the clock's level (R87 (a), (b)). -/
def environmentMoveOk (clk : Level) (s : State) : Instr → Bool
  | .rise _ => !clk
  | .fall => clk
  | .tmo c => s.settling && c == clk
  | .init => true
  | .sync => true
  | .rdst => true
  | .wrkey _ => true
  | .reset => true

/-- The level of `CLK` after the next step (R87 (b)). -/
def clockNext (clk : Level) (s : State) : Level :=
  match taken s with
  | some i => clockAfter clk i
  | none => clk

/-- What the next step meets is something the environment and a conforming host may produce (R87, R181, R64). -/
def stimulusOk (clk : Level) (s : State) : Bool :=
  match fetch s with
  | .nothing => true
  | .withdrawn _ _ => true
  | .onPort _ w t => match decodeOnPort w with
    | .ok i => environmentMoveOk clk t i
    | .error _ => false
  | .inTrace w t => match decode w with
    | .ok i => environmentMoveOk clk t i
    | .error _ => false

/-- Every stimulus that so many steps meet is one the environment may produce where it is met. Nothing is asked of the
outcome of a step: after a stop no further stimulus is met. -/
def environmentOk : Nat → Level → State → Bool
  | 0, _, _ => true
  | n + 1, clk, s =>
    stimulusOk clk s &&
      match step s with
      | .next t => environmentOk n (clockNext clk s) t
      | .fault _ => true
      | .refused _ => true

end Sys2Proof.Safety
end

