-- ==== Sys2Proof/Certificates/Slice0/Obligations.lean ====
section
/-!
DEFINITION. The statements for the provers. Each docstring names the rule of spec/ that the statement formalises; log n is
notes/assumptions/n.md.
-/

open Sys2Proof Sys2Proof.Machine Sys2Proof.Safety

/-! ## Encoding -/

/-- R66: "`decode(encode(x)) = x` for every operation `x`, and `encode(decode(W)) = W` for every `W` that is not
`invalid`", and 265 of the 4096 words are valid.
The words are the naming of the spec itself: D2. -/
def Obligations.DecodeAndEncodeAreInverse : Prop :=
  (∀ i, decode (encode i) = .ok i) ∧
  (∀ w i, decode w = .ok i → encode i = w) ∧
  ((List.range 4096).filter fun n => (decode (BitVec.ofNat 12 n)).isOk).length = 265

/-- R62: a word spells the operation of a row exactly when it carries the row's word under the row's mask; the rows are
disjoint.
The words are the naming of the spec itself: D2. -/
def Obligations.WordSpellsItsTableRow : Prop :=
  (∀ w i, decode w = .ok i → w &&& rowMask i = rowWord i) ∧
  (∀ w i, w &&& rowMask i = rowWord i → ∃ j, decode w = .ok j ∧ rowWord j = rowWord i) ∧
  (∀ w i j, w &&& rowMask i = rowWord i → w &&& rowMask j = rowWord j → rowWord i = rowWord j)

/-- R64: the reserved words are those with `op` in 4..7, those whose must-be-zero bits are not zero, and a `cls = 1`
word on the `CMD` port; the decoder rejects them and a step that meets one is refused. That a reserved word is refused
is a decision of the spec, D18; how the model refuses it: log 7. -/
def Obligations.ReservedWordsAreRefused : Prop :=
  (∀ w, (∃ r, decode w = .error r) ↔
    4 ≤ (opOf w).toNat ∨ argOf w &&& (fieldsOf w).mustBeZero ≠ 0#8) ∧
  (∀ w, clsOf w = true → decodeOnPort w = .error .eventOnCommandPort) ∧
  (∀ w, clsOf w = false → decodeOnPort w = decode w) ∧
  (∀ s w ws r, s.mode ≠ .idle ∨ s.presented = [] → s.stim = .word w :: ws → decode w = .error r →
    step s = .refused (.reservedWord r)) ∧
  (∀ s w r, s.mode = .idle → s.presented = [w] → decodeOnPort w = .error r →
    step s = .refused (.reservedWord r))

/-- Sanity: words written out bit by bit from R60 and R62 decode to the operations they stand for.
The words are the naming of the spec itself: D2. -/
def Obligations.WrittenOutWordsDecode : Prop :=
  decode 0b000000000000#12 = .ok .init ∧ decode 0b000100000000#12 = .ok .sync ∧
  decode 0b001000000000#12 = .ok .rdst ∧ decode 0b001101111101#12 = .ok (.wrkey 0x7D#8) ∧
  decode 0b100000000001#12 = .ok (.rise true) ∧ decode 0b100100000000#12 = .ok .fall ∧
  decode 0b101000000001#12 = .ok (.tmo true) ∧ decode 0b101100000000#12 = .ok .reset

/-! ## The step -/

/-- A step runs the decoded stimulus. The trace's next word runs, in the state without it, unless a command waits and
the block is Idle; a single waiting command runs, in the state in which it is no longer presented, as soon as the block
is Idle (R68, R120); a withdrawal by the host takes its word away and changes nothing else (R176); with none of these,
nothing happens (R152). How the trace and the waiting commands are held is the model's: log 1, log 2, log 9. -/
def Obligations.StepRunsTheDecodedStimulus : Prop :=
  (∀ s w ws i, s.mode ≠ .idle ∨ s.presented = [] → s.stim = .word w :: ws → decode w = .ok i →
    step s = exec i { s with stim := ws }) ∧
  (∀ s w i, s.mode = .idle → s.presented = [w] → decodeOnPort w = .ok i →
    step s = exec i { s with presented := [] }) ∧
  (∀ s k ws, s.mode ≠ .idle ∨ s.presented = [] → s.stim = .withdraw k :: ws →
    step s = .next { s with stim := ws, presented := s.presented.eraseIdx k }) ∧
  (∀ s, s.mode ≠ .idle ∨ s.presented = [] → s.stim = [] → step s = .next s)

/-- `withFetchWord` places the word where the very next step takes it (log 1). -/
def Obligations.PlacedWordRunsNext : Prop :=
  ∀ s nbits w i, decodeTableWord nbits w = some i →
    ∃ t, step (s.withFetchWord nbits w) = exec i t ∧ SameBlock s t ∧ t.cfg = s.cfg ∧ t.stim = s.stim

/-- R56, U6: when several callers wait and the block is Idle, one of them is accepted, whichever; the others go on
waiting. Which one is a free value (log 2). -/
def Obligations.SomeWaitingCallerIsServed : Prop :=
  ∀ s, s.mode = .idle → s.presented ≠ [] → (∀ w ∈ s.presented, ∃ i, decodeOnPort w = .ok i) →
    ∃ w i rest n, w ∈ s.presented ∧ List.Perm (w :: rest) s.presented ∧ decodeOnPort w = .ok i ∧
      step s = exec i { s with presented := rest, draws := n } ∧
      ∃ t, step s = .next t ∧ t.mode ≠ .idle ∧ t.presented = rest ∧ t.stim = s.stim

/-! ## The transaction gate -/

/-- R120, the hold: a command presented while `MODE != Idle` changes nothing and goes on being presented. That the
waiting words form a list, the newest last, is the model's: log 2. The hold is a decision of the spec: D15. -/
def Obligations.CommandsAreHeldWhileBusy : Prop :=
  ∀ s, s.mode ≠ .idle → ∀ i, i.isCommand = true →
    exec i s = .next { s with presented := s.presented ++ [encode i] }

/-- R120: a held command "is not lost": while `MODE != Idle` every step keeps what is presented, in its order, unless the
host itself withdraws a command (R176); then the others stay.
The hold is a decision of the spec: D15. The list of waiting words is the model's: log 2. -/
def Obligations.HeldCommandsAreNotLost : Prop :=
  ∀ s t, s.mode ≠ .idle → step s = .next t →
    ((∀ k ws, s.stim ≠ .withdraw k :: ws) → ∃ ws, t.presented = s.presented ++ ws) ∧
    (∀ k ws, s.stim = .withdraw k :: ws → t.presented = s.presented.eraseIdx k ∧ SameBlock s t)

/-- R176: the host may withdraw a command before it is accepted. A command held and withdrawn leaves the run as it would be
if it had never been presented, and a command already accepted is beyond the host's reach.
The move is the model's form of what the host may do: log 2. -/
def Obligations.HostMayWithdrawAHeldCommand : Prop :=
  (∀ s i rest, i.isCommand = true → s.mode ≠ .idle →
    s.stim = .word (encode i) :: .withdraw s.presented.length :: rest → run 2 s = .next { s with stim := rest }) ∧
  (∀ s i rest, i.isCommand = true → s.mode = .idle → s.presented = [] →
    s.stim = .word (encode i) :: .withdraw 0 :: rest →
      ∃ t, exec i { s with stim := rest } = .next t ∧ run 2 s = .next t)

/-- R53: acceptance tests `MODE = Idle` and, in the same step, sets `MODE` to a non-Idle value; a second command finds
that value and is held, so two are never accepted against one Idle state.
What a held command does is R120's hold, a decision of the spec (D15), in the form of log 2. -/
def Obligations.AcceptanceIsTestAndSet : Prop :=
  ∀ s i, i.isCommand = true →
    (s.mode = .idle → ∃ t, exec i s = .next t ∧ t.mode ≠ .idle ∧ t.presented = s.presented) ∧
    (s.mode ≠ .idle → ∃ t, exec i s = .next t ∧ SameBlock s t ∧ encode i ∈ t.presented) ∧
    (∀ t j, exec i s = .next t → j.isCommand = true →
      ∃ u, exec j t = .next u ∧ SameBlock t u ∧ encode j ∈ u.presented)

/-- R22: "a command is accepted in a step where `CMD_VALID` and `CMD_READY` are both 1": when the block is ready and a valid
command word stands on the port, the step is the command's own at the same block and leaves Idle; no step leaves Idle
otherwise, and while nothing stands on the port an Idle block takes no command.
The ports are a decision of the spec: D21; what stands on the port is read off the lists of log 1 and log 2. -/
def Obligations.CommandsAreAcceptedWhenValidAndReady : Prop :=
  (∀ s w i, s.cmdReady = true → s.cmd = some w → decodeOnPort w = .ok i →
    taken s = some i ∧ ∃ u t, SameBlock s u ∧ u.cfg = s.cfg ∧ step s = exec i u ∧ step s = .next t ∧
      t.mode ≠ .idle) ∧
  (∀ s t, step s = .next t → s.mode = .idle → t.mode ≠ .idle → s.cmdReady = true ∧ s.cmdValid = true) ∧
  (∀ s i, s.cmdReady = true → s.cmdValid = false → taken s = some i → i.isCommand = false)

/-- R121, `INIT`: the line is released and a synchronisation starts, which a sync edge and a good sample end in
`MODE = Idle` with `LOCK = 1`; held while `MODE != Idle`.
What `INIT` does is a decision of the spec: D20; the hold D15; log 11. -/
def Obligations.InitReleasesAndSynchronises : Prop :=
  ∀ s,
    (s.mode = .idle →
      exec .init s = .next { s with doe := false, lock := false, pend := none, sph := .armed, mode := .syncing }) ∧
    (s.mode = .idle →
      execAll (.init :: lockSeq s.cfg) s =
        .next { s with doe := false, lock := true, pend := none, sph := .armed, mode := .idle }) ∧
    (s.mode ≠ .idle → ∃ t, exec .init s = .next t ∧ SameBlock s t ∧ 0x000#12 ∈ t.presented)

/-- R124, `RDST`: EC and SR are cleared; the read starts, after a synchronisation when there is no lock or every
transaction re-synchronises; held while `MODE != Idle`.
Decisions of the spec in it: SR to 0, D12; PEND, D4; when to synchronise, D8; the hold, D15; log 11. -/
def Obligations.RdstStartsRead : Prop :=
  ∀ s,
    (s.mode = .idle → s.lock = true → s.cfg.resyncEachTxn = false →
      exec .rdst s = .next { s with ec := 0#6, sr := 0#16, mode := .reading }) ∧
    (s.mode = .idle → s.lock = false ∨ s.cfg.resyncEachTxn = true →
      exec .rdst s = .next { s with ec := 0#6, sr := 0#16, lock := false, pend := some .read, sph := .armed,
                                    mode := .syncing }) ∧
    (s.mode ≠ .idle → ∃ t, exec .rdst s = .next t ∧ SameBlock s t ∧ 0x200#12 ∈ t.presented)

/-- R125 and R127, `WRKEY k`: the write buffer is the payload byte four times, EC is cleared; the write starts, after a
synchronisation when there is no lock or every transaction re-synchronises; held while `MODE != Idle`.
Decisions of the spec in it: KEY_INVERT, D9; PEND, D4; when to synchronise, D8; SR kept, D12; the hold, D15; log 11. -/
def Obligations.WrkeyStartsWrite : Prop :=
  ∀ s k, ∀ p : BitVec 8, p = (if s.cfg.keyInvert = true then k ^^^ 0xFF#8 else k) →
    (s.mode = .idle → s.lock = true → s.cfg.resyncEachTxn = false →
      exec (.wrkey k) s = .next { s with wb := p ++ p ++ p ++ p, ec := 0#6, mode := .writing }) ∧
    (s.mode = .idle → s.lock = false ∨ s.cfg.resyncEachTxn = true →
      exec (.wrkey k) s = .next { s with wb := p ++ p ++ p ++ p, ec := 0#6, lock := false, pend := some .write,
                                         sph := .armed, mode := .syncing }) ∧
    (s.mode ≠ .idle → ∃ t, exec (.wrkey k) s = .next t ∧ SameBlock s t ∧ encode (.wrkey k) ∈ t.presented)

/-! ## The synchronizer -/

/-- R80, `SYNC`: the lock is dropped and acquired afresh, whatever it was; on a bus without a good sample the
operation never completes; held while `MODE != Idle`. That `SYNC` is a command and drops the lock is a decision of the
spec: D23; log 11. -/
def Obligations.SyncAlwaysResynchronises : Prop :=
  ∀ s,
    (s.mode = .idle → exec .sync s = .next { s with lock := false, pend := none, sph := .armed, mode := .syncing }) ∧
    (s.mode = .idle →
      execAll (.sync :: lockSeq s.cfg) s =
        .next { s with lock := true, pend := none, sph := .armed, mode := .idle }) ∧
    (s.mode = .idle → ∀ es, (∀ i ∈ es, i ≠ .reset ∧ ∀ c, i ≠ .tmo c) →
      ∃ t, execAll (.sync :: es) s = .next t ∧ t.mode = .syncing ∧ t.lock = false) ∧
    (s.mode ≠ .idle → ∃ t, exec .sync s = .next t ∧ SameBlock s t ∧ 0x100#12 ∈ t.presented)

/-- R82, `TMO c`: with the expected level it locks and sets MODE from PEND, with the other level it only re-arms; it
is not enabled unless an attempt is settling. (b) Under the invariant of R29 the counter and, for a read, SR are 0 at
the hand-off; (d) nothing else sets LOCK.
That a `TMO` which is not enabled is refused is the model's form: log 6. -/
def Obligations.TmoLocksOrRearms : Prop :=
  ∀ s c,
    (s.mode = .syncing → s.sph = .settling → c = s.cfg.syncLevel →
      (s.pend = none → exec (.tmo c) s =
        .next { s with lock := true, sph := .armed, mode := .idle, pend := none }) ∧
      (s.pend = some .read → exec (.tmo c) s =
        .next { s with lock := true, sph := .armed, mode := .reading, pend := none }) ∧
      (s.pend = some .write → exec (.tmo c) s =
        .next { s with lock := true, sph := .armed, mode := .writing, pend := none })) ∧
    (s.mode = .syncing → s.sph = .settling → c ≠ s.cfg.syncLevel →
      exec (.tmo c) s = .next { s with sph := .armed }) ∧
    (s.mode ≠ .syncing ∨ s.sph ≠ .settling → exec (.tmo c) s = .refused .timerNotRunning) ∧
    (BlockInv s → s.mode = .syncing → (s.pend = some .read → s.ec = 0#6 ∧ s.sr = 0#16) ∧
      (s.pend = some .write → s.ec = 0#6)) ∧
    (∀ i t, exec i s = .next t → s.lock = false → t.lock = true → i = .tmo s.cfg.syncLevel)

/-- R85 and the source's test S4: while every `TMO` carries the wrong level (and no `RESET` comes), a synchronisation
never ends and the lock stays unset, whatever else arrives; while no edge of polarity SYNC_EDGE arrives at an armed
attempt, nothing in the block changes at all. -/
def Obligations.LockNeedsTheExpectedLevel : Prop :=
  (∀ es s t, s.mode = .syncing → s.lock = false →
    (∀ i ∈ es, i ≠ .reset ∧ i ≠ .tmo s.cfg.syncLevel) → execAll es s = .next t →
      t.mode = .syncing ∧ t.lock = false ∧ t.pend = s.pend) ∧
  (∀ es s t, s.mode = .syncing → s.sph = .armed →
    (∀ i ∈ es, i ≠ .reset ∧ (s.cfg.syncEdge = .rising → ∀ d, i ≠ .rise d) ∧ (s.cfg.syncEdge = .falling → i ≠ .fall)) →
    execAll es s = .next t → t.mode = .syncing ∧ SameBlock s t)

/-- R16: LOCK is set to 1 only by `TMO` with the expected level; it is cleared only by `RESET`, by an accepted `INIT` or
`SYNC`, and by an accepted `RDST` or `WRKEY` under RESYNC_EACH_TXN; it is shown on LOCK_OUT.
What clears LOCK is a decision of the spec: D8. -/
def Obligations.LockIsSetAndClearedOnlyAsStated : Prop :=
  ∀ i s t, exec i s = .next t →
    (s.lock = false → t.lock = true → s.mode = .syncing ∧ s.sph = .settling ∧ i = .tmo s.cfg.syncLevel) ∧
    (s.lock = true → t.lock = false → i = .reset ∨ (s.mode = .idle ∧ (i = .init ∨ i = .sync ∨
      (s.cfg.resyncEachTxn = true ∧ (i = .rdst ∨ ∃ k, i = .wrkey k))))) ∧
    t.ports.lockOut = t.lock

/-- R84: the first edge after the locking `TMO` is handled by the frame engine.
That the hand-off is one atomic step is a decision of the spec: D17; log 11. -/
def Obligations.HandOffLosesNoEdge : Prop :=
  ∀ s d, BlockInv s → s.mode = .syncing → s.sph = .settling →
    (s.pend = some .read → execAll [.tmo s.cfg.syncLevel, .rise d] s =
      .next { s with lock := true, sph := .armed, pend := none, mode := .reading, ec := 1#6, doe := false,
                     sr := (BitVec.ofBool d).setWidth 16 }) ∧
    (s.pend = some .write → execAll [.tmo s.cfg.syncLevel, .fall] s =
      .next { s with lock := true, sph := .armed, pend := none, mode := .writing, ec := 1#6, doe := true,
                     dout := s.wb.getLsbD 31 })

/-! ## The frame engine -/

/-- R100, `RISE d`, with the procedures it calls: SyncEdge (R81), ReadBit (R102), nothing while Writing (R105), IdleEdge
(R104).
The called procedures are decisions of the spec where they follow D5, D10 and D11 (log 11); the count of a read above its
bound, which no run reaches, is the model's: log 10. -/
def Obligations.RiseIsRoutedByMode : Prop :=
  ∀ s d,
    (s.mode = .syncing → s.sph = .armed → s.cfg.syncEdge = .rising →
      exec (.rise d) s = .next { s with sph := .settling }) ∧
    (s.mode = .syncing → s.sph ≠ .armed ∨ s.cfg.syncEdge ≠ .rising → exec (.rise d) s = .next s) ∧
    (s.mode = .reading →
      exec (.rise d) s = .next { s with doe := false, sr := (s.sr <<< 1) ||| (BitVec.ofBool d).setWidth 16,
                                        ec := s.ec + 1#6, mode := if s.ec + 1#6 = 16#6 then .idle else .reading }) ∧
    (s.mode = .writing → exec (.rise d) s = .next s) ∧
    (s.mode = .idle → s.cfg.idleEdgeAction = .release → exec (.rise d) s = .next { s with doe := false }) ∧
    (s.mode = .idle → s.cfg.idleEdgeAction = .none → exec (.rise d) s = .next s) ∧
    (s.mode = .idle → s.cfg.idleEdgeAction = .drivePassive →
      exec (.rise d) s = .next { s with doe := true, dout := s.cfg.passiveLevel })

/-- R101, `FALL`, with the procedures it calls: SyncEdge (R81), WriteBit (R103), nothing while Reading (R105), IdleEdge
(R104). Which bit is driven is stated where EC is within its bound (R24 (b)); the rest holds for every EC.
The called procedures are decisions of the spec where they follow D5, D10 and D11 (log 11); that a bit is driven, and the
count, for EC above its bound, which no run reaches, is the model's: log 10. -/
def Obligations.FallIsRoutedByMode : Prop :=
  ∀ s,
    (s.mode = .syncing → s.sph = .armed → s.cfg.syncEdge = .falling →
      exec .fall s = .next { s with sph := .settling }) ∧
    (s.mode = .syncing → s.sph ≠ .armed ∨ s.cfg.syncEdge ≠ .falling → exec .fall s = .next s) ∧
    (s.mode = .writing → ∃ b,
      exec .fall s = .next { s with doe := true, dout := b, ec := s.ec + 1#6,
                                    mode := if s.ec + 1#6 = 32#6 then .idle else .writing } ∧
      (s.ec.toNat ≤ 31 → b = s.wb.getLsbD (31 - s.ec.toNat))) ∧
    (s.mode = .reading → exec .fall s = .next s) ∧
    (s.mode = .idle → s.cfg.idleEdgeAction = .release → exec .fall s = .next { s with doe := false }) ∧
    (s.mode = .idle → s.cfg.idleEdgeAction = .none → exec .fall s = .next s) ∧
    (s.mode = .idle → s.cfg.idleEdgeAction = .drivePassive →
      exec .fall s = .next { s with doe := true, dout := s.cfg.passiveLevel })

/-- R102 and the source's test S2: one `RISE` while Reading is one bit; from the start of a read, sixteen samples,
with any number of off-phase edges before each, end the read with each sample in its own bit of SR, the first in
`SR[15]`; nothing else but EC, DOE and MODE changes. The initial content of SR does not matter.
That an off-phase edge changes nothing is R105, a decision of the spec: D11 (log 11); the count above its bound: log 10. -/
def Obligations.ReadCollectsSixteenSamplesInOrder : Prop :=
  (∀ s d, s.mode = .reading →
    exec (.rise d) s = .next { s with doe := false, sr := (s.sr <<< 1) ||| (BitVec.ofBool d).setWidth 16,
                                      ec := s.ec + 1#6, mode := if s.ec + 1#6 = 16#6 then .idle else .reading }) ∧
  (∀ (ps : List (Nat × Level)) (s : State), s.mode = .reading → s.ec = 0#6 → ∀ h : ps.length = 16,
    ∃ sr, execAll (readEdges ps) s = .next { s with sr := sr, ec := 16#6, doe := false, mode := .idle } ∧
      ∀ n (hn : n < 16), sr.getLsbD (15 - n) = (ps[n]'(by omega)).2)

/-- R103 and the source's test S3: one `FALL` while Writing is one bit; from the start of a write, thirty-two
driver-phase edges, with any off-phase edges before each, drive `WB[31], ..., WB[0]`, with the line driven at every
one of them, and end the write; WB and SR are unchanged. The bits of a byte four times are the byte's bits four times.
That an off-phase edge changes nothing is R105, a decision of the spec: D11 (log 11). -/
def Obligations.WriteDrivesBufferMsbFirst : Prop :=
  (∀ s, s.mode = .writing → s.ec.toNat ≤ 31 →
    exec .fall s = .next { s with doe := true, dout := s.wb.getLsbD (31 - s.ec.toNat), ec := s.ec + 1#6,
                                  mode := if s.ec + 1#6 = 32#6 then .idle else .writing }) ∧
  (∀ (rs : List (List Level)) (s : State), s.mode = .writing → s.ec = 0#6 → rs.length = 32 →
    execAll (writeEdges rs) s =
      .next { s with doe := true, dout := s.wb.getLsbD 0, ec := 32#6, mode := .idle } ∧
    ∀ n, n < 32 → ∃ t, execAll (writeEdges (rs.take (n + 1))) s = .next t ∧ t.doe = true ∧
      t.dout = s.wb.getLsbD (31 - n)) ∧
  (∀ p : BitVec 8, writeBits (p ++ p ++ p ++ p) = (List.replicate 4 (byteBits p)).flatten)

/-- R71: over the run of a write, whatever off-phase edges come between and whatever commands wait, the captured output is
`WB[31], ..., WB[0]`, and the wire trace shows each of them driven.
That the run takes its stimuli from a list is the model's: log 1. -/
def Obligations.WriteShowsOnTheWires : Prop :=
  ∀ (rs : List (List Level)) (s : State) rest, s.mode = .writing → s.ec = 0#6 → rs.length = 32 →
    s.stim = words (writeEdges rs) ++ rest →
    run (writeEdges rs).length s =
      .next { s with doe := true, dout := s.wb.getLsbD 0, ec := 32#6, mode := .idle, stim := rest } ∧
    captured (writeEdges rs).length s = writeBits s.wb ∧
    wireTrace (writeEdges rs).length s = (writeBits s.wb).map fun b => (true, b)

/-- S3, S6 and U18: a key accepted under lock and run over thirty-two cycles puts its payload byte on the wire four
times, bit 7 first, whatever the key code. KEY_INVERT is a parameter by a decision of the spec: D9; that the run takes its stimuli from a list: log 1. -/
def Obligations.KeyGoesOutFourTimes : Prop :=
  ∀ s k rest, s.mode = .idle → s.lock = true → s.cfg.resyncEachTxn = false → s.presented = [] →
    s.stim = words (.wrkey k :: cycles 32) ++ rest →
    captured 65 s =
      (List.replicate 4 (byteBits (if s.cfg.keyInvert = true then k ^^^ 0xFF#8 else k))).flatten

/-- R71 with R68 and R120: a key presented at any point of a write, from its acceptance to its last `FALL`, is held, is
accepted at the first Idle state, before the stimulus that stands there, and goes out next; the captured output is the
first key four times, then the second, with the line driven at every `FALL`, whatever off-phase edges come between.
KEY_INVERT is a parameter by a decision of the spec: D9; the hold is D15, in the form of log 2; the list of stimuli is
log 1. -/
def Obligations.HeldKeyGoesOutNext : Prop :=
  ∀ s a b rest (rs qs : List (List Level)) (e f : List Instr) (n : Nat), ∀ p q : BitVec 8,
    s.mode = .idle → s.lock = true → s.cfg.resyncEachTxn = false → s.presented = [] →
    p = (if s.cfg.keyInvert = true then a ^^^ 0xFF#8 else a) →
    q = (if s.cfg.keyInvert = true then b ^^^ 0xFF#8 else b) →
    rs.length = 32 → qs.length = 32 → e ++ f = writeEdges rs → f ≠ [] →
    s.stim = words (.wrkey a :: (e ++ .wrkey b :: (f ++ writeEdges qs))) ++ rest →
    n = (writeEdges rs).length + (writeEdges qs).length + 3 →
    captured n s = (List.replicate 4 (byteBits p)).flatten ++ (List.replicate 4 (byteBits q)).flatten ∧
    wireTrace n s = (captured n s).map (fun v => (true, v)) ∧
    ∃ t, run n s = .next t ∧ t.mode = .idle ∧ t.presented = [] ∧ t.stim = rest

/-- R47 (b): a read that starts after `k` panel-phase edges of a packet with mask `p`, the next packet's mask being
`q`, ends with `SR[15:k] = p[15-k:0]` and `SR[k-1:0] = q[15:16-k]`, and nothing traps. The spec derives it;
RESYNC_EACH_TXN is left open: D8. -/
def Obligations.MisalignedReadShiftsTheWindow : Prop :=
  ∀ s (p q : StatusWord) (k : Nat), k ≤ 15 → s.mode = .reading → s.ec = 0#6 →
    execAll (((statusBits p).drop k ++ (statusBits q).take k).flatMap cycle) s =
      .next { s with sr := (p <<< k) ||| (q >>> (16 - k)), ec := 16#6, doe := false, mode := .idle }

/-- R108: the last bit of a write stays driven until the next clock edge, which releases the line under Release; if a
key is accepted before that edge, the line is not released and the next driver-phase edge drives the new `WB[31]`. The
spec derives it from its decisions D10 and D11. -/
def Obligations.LastBitStaysDriven : Prop :=
  ∀ s d k, s.mode = .writing → s.ec = 31#6 → s.cfg.idleEdgeAction = .release →
    exec .fall s = .next { s with doe := true, dout := s.wb.getLsbD 0, ec := 32#6, mode := .idle } ∧
    execAll [.fall, .rise d] s = .next { s with doe := false, dout := s.wb.getLsbD 0, ec := 32#6, mode := .idle } ∧
    (s.lock = true → s.cfg.resyncEachTxn = false →
      ∃ t, execAll [.fall, .wrkey k, .rise d] s = .next t ∧ t.mode = .writing ∧ t.doe = true ∧
        t.dout = s.wb.getLsbD 0 ∧
        ∃ u, exec .fall t = .next u ∧ u.doe = true ∧ u.dout = t.wb.getLsbD 31)

/-- R107: with no further `RISE` while Reading, or no further `FALL` while Writing, the state of the block does not
change, whatever commands and off-phase edges arrive, and every command stays held; no timer can run; `RESET` leaves
the state.
That held commands stand in a list, in order, is the model's form of D15's hold: log 2; that a `TMO` is refused: log 6. -/
def Obligations.StalledClockFreezesTransaction : Prop :=
  (∀ es s, s.mode = .reading → (∀ i ∈ es, i.isCommand = true ∨ i = .fall) →
    ∃ t, execAll es s = .next t ∧ SameBlock s t ∧
      t.presented = s.presented ++ (es.filter Instr.isCommand).map encode) ∧
  (∀ es s, s.mode = .writing → (∀ i ∈ es, i.isCommand = true ∨ ∃ d, i = .rise d) →
    ∃ t, execAll es s = .next t ∧ SameBlock s t ∧
      t.presented = s.presented ++ (es.filter Instr.isCommand).map encode) ∧
  (∀ s c, s.mode = .reading ∨ s.mode = .writing →
    exec (.tmo c) s = .refused .timerNotRunning ∧ ∃ t, exec .reset s = .next t ∧ t.mode = .idle)

/-- R110: the transition graph of MODE is complete: a step changes MODE only along one of its arrows, and every arrow is
a step; the synchronisations that `RDST` and `WRKEY` start carry their direction. -/
def Obligations.ModeMovesOnlyAlongTheGraph : Prop :=
  (∀ i s t, exec i s = .next t → t.mode ≠ s.mode → ModeArrow s i t.mode) ∧
  (∀ i s m, ModeArrow s i m → ∃ t, exec i s = .next t ∧ t.mode = m) ∧
  (∀ s t, s.mode = .idle → exec .rdst s = .next t → t.mode = .syncing → t.pend = some .read) ∧
  (∀ s t k, s.mode = .idle → exec (.wrkey k) s = .next t → t.mode = .syncing → t.pend = some .write)

/-- R106: "the step that counts the last bit sets `MODE <- Idle`, `BUSY` falls and `CMD_READY` rises in that same step":
that step takes BUSY from 1 to 0 and CMD_READY from 0 to 1, and while a transaction is in progress no other step does, but
`RESET`. The rule's "no interrupt, no done pulse and no result queue" is that `Ports` and `State` have no such field. -/
def Obligations.CompletionIsSignalledInTheLastBitsStep : Prop :=
  (∀ s d, s.mode = .reading → s.ec = 15#6 →
    s.ports.busy = true ∧ s.ports.cmdReady = false ∧
    ∃ t, exec (.rise d) s = .next t ∧ t.mode = .idle ∧ t.ports.busy = false ∧ t.ports.cmdReady = true) ∧
  (∀ s, s.mode = .writing → s.ec = 31#6 →
    s.ports.busy = true ∧ s.ports.cmdReady = false ∧
    ∃ t, exec .fall s = .next t ∧ t.mode = .idle ∧ t.ports.busy = false ∧ t.ports.cmdReady = true) ∧
  (∀ i s t, s.mode = .reading ∨ s.mode = .writing → exec i s = .next t →
    t.ports.busy = false ∨ t.ports.cmdReady = true →
    i = .reset ∨ (s.mode = .reading ∧ s.ec = 15#6 ∧ ∃ d, i = .rise d) ∨
      (s.mode = .writing ∧ s.ec = 31#6 ∧ i = .fall))

/-! ## Reset -/

/-- R170, `RESET`: in every state MODE, LOCK, PEND, SPH and DOE take their reset values and SR, WB, EC and DOUT some
value; no `TMO` follows; a command being presented is not consumed. `RESET` is a decision of the spec: D16; the
unspecified values are free: log 3. -/
def Obligations.ResetEndsEverything : Prop :=
  ∀ s, ∃ sr wb ec dout n,
    exec .reset s = .next { s with mode := .idle, lock := false, pend := none, sph := .armed, doe := false,
                                   sr := sr, wb := wb, ec := ec, dout := dout, draws := n } ∧
    ∀ c t, exec .reset s = .next t → exec (.tmo c) t = .refused .timerNotRunning ∧ t.presented = s.presented

/-- R28: the registers to which reset gives a value have it in `State.reset`.
The values are a decision of the spec: D16. -/
def Obligations.ResetStateHasTheStatedValues : Prop :=
  State.reset.mode = .idle ∧ State.reset.lock = false ∧ State.reset.pend = none ∧ State.reset.sph = .armed ∧
    State.reset.doe = false ∧ State.reset.cmdReady = true

/-- R173: after `RESET`, `RDST` and `WRKEY` synchronise by themselves, with every register they use defined although
`RESET` left it unspecified (V-X3). A decision of the spec: D20. -/
def Obligations.ResetNeedsNoInit : Prop :=
  ∀ s k,
    (∃ t, execAll [.reset, .rdst] s = .next t ∧ t.mode = .syncing ∧ t.pend = some .read ∧ t.sph = .armed ∧
      t.lock = false ∧ t.ec = 0#6 ∧ t.sr = 0#16 ∧ t.doe = false) ∧
    (∃ t, execAll [.reset, .wrkey k] s = .next t ∧ t.mode = .syncing ∧ t.pend = some .write ∧ t.sph = .armed ∧
      t.lock = false ∧ t.ec = 0#6 ∧ t.wb = rep4 (payload s.cfg.keyInvert k) ∧ t.doe = false)

/-! ## Invariants -/

/-- R24 and R29 hold of the state after reset, whatever the unspecified registers hold.
It rests on the reset values of D16. -/
def Obligations.InvariantHoldsAtReset : Prop := BlockInv State.reset

/-- R24 (b), (c) and R29 (f) to (l): every step keeps the invariant, and PEND is never 1 (k).
R29 is derived by the spec from its rules. -/
def Obligations.EveryStepKeepsTheInvariant : Prop :=
  ∀ s t, BlockInv s → step s = .next t → BlockInv t ∧ pendCode t.pend ≠ 1#2

/-- R24 (b): after the first accepted `RDST` or `WRKEY`, EC is at most 32 until a `RESET`.
Width and stop of EC are a decision of the spec: D13; log 10. -/
def Obligations.EdgeCountStaysWithinItsBound : Prop :=
  (∀ s t i, s.mode = .idle → (i = .rdst ∨ ∃ k, i = .wrkey k) → exec i s = .next t → t.ec.toNat ≤ 32) ∧
  (∀ s t i, BlockInv s → s.ec.toNat ≤ 32 → i ≠ .reset → exec i s = .next t → t.ec.toNat ≤ 32)

/-- R13: WB is written by an accepted `WRKEY` only, and not during a write transaction; `RESET` leaves it unspecified
(R170).
The spec derives it; the reset is D16. -/
def Obligations.WriteBufferIsImmutable : Prop :=
  ∀ i s t, exec i s = .next t → i ≠ .reset →
    (t.wb ≠ s.wb → s.mode = .idle ∧ ∃ k, i = .wrkey k) ∧
    (s.mode = .writing ∨ (s.mode = .syncing ∧ s.pend = some .write) → t.wb = s.wb)

/-- R11: SR is written by an accepted `RDST`, which clears it, and by `RISE` while Reading, which shifts the sample in;
`RESET` leaves it unspecified (R170).
A decision of the spec: D12; the reset is D16. -/
def Obligations.StatusIsWrittenOnlyByReads : Prop :=
  ∀ i s t, exec i s = .next t → i ≠ .reset → t.sr ≠ s.sr →
    (i = .rdst ∧ s.mode = .idle ∧ t.sr = 0#16) ∨
    (∃ d, i = .rise d ∧ s.mode = .reading ∧ t.sr = (s.sr <<< 1) ||| (BitVec.ofBool d).setWidth 16)

/-- R25: SR is the result from the step of the sixteenth `RISE` until the next accepted `RDST` (or `RESET`), and no
step in that interval writes it. A decision of the spec: D25. -/
def Obligations.ReadResultLastsUntilTheNextRead : Prop :=
  (∀ s t d, BlockInv s → s.mode = .reading → s.ec = 15#6 → exec (.rise d) s = .next t →
    resultHeldAfter false (.rise d) s = true ∧ t.mode = .idle ∧ t.pend = none) ∧
  (∀ i s t, s.mode ≠ .reading → s.pend ≠ some .read → exec i s = .next t → resultHeldAfter true i s = true →
    t.sr = s.sr ∧ t.mode ≠ .reading ∧ t.pend ≠ some .read) ∧
  (∀ i s, s.mode ≠ .reading → (resultHeldAfter true i s = false ↔ i = .reset ∨ (i = .rdst ∧ s.mode = .idle)))

/-- R26: while `MODE != Idle` no command writes any register; while `MODE = Idle` an edge writes at most DOE and DOUT,
and the timer has no step.
That a `TMO` which is not enabled is refused is the model's form: log 6. -/
def Obligations.ContextsOwnDisjointIntervals : Prop :=
  (∀ i s t, i.isCommand = true → s.mode ≠ .idle → exec i s = .next t → SameBlock s t) ∧
  (∀ i s t, (i = .fall ∨ ∃ d, i = .rise d) → s.mode = .idle → exec i s = .next t →
    t = { s with doe := t.doe, dout := t.dout }) ∧
  (∀ c s, s.mode = .idle → exec (.tmo c) s = .refused .timerNotRunning)

/-- R161: for every state and stimulus exactly one outcome: a step (or a hold) for commands, edges and `RESET`; for
`TMO` a step exactly when an attempt is settling, else not enabled; a reserved word is refused; nothing faults. The
spec derives it; the two refusals are the model's form of it: log 6, log 7. -/
def Obligations.OutcomesAreAsStated : Prop :=
  (∀ i s, (∀ c, i ≠ .tmo c) → ∃ t, exec i s = .next t) ∧
  (∀ c s, (∃ t, exec (.tmo c) s = .next t) ↔ s.mode = .syncing ∧ s.sph = .settling) ∧
  (∀ c s, exec (.tmo c) s = .refused .timerNotRunning ↔ ¬(s.mode = .syncing ∧ s.sph = .settling)) ∧
  (∀ w r s, decode w = .error r → runDecoded (decode w) s = .refused (.reservedWord r)) ∧
  (∀ s f, step s ≠ .fault f)

/-- No step changes the parameters of R6, and no meaning takes a stimulus from the trace. That the parameters stand in
State is the model's: log 5. -/
def Obligations.ParametersNeverChange : Prop :=
  (∀ s t, step s = .next t → t.cfg = s.cfg) ∧
  (∀ i s t, exec i s = .next t → t.cfg = s.cfg ∧ t.stim = s.stim)

/-! ## Ports, environment, calls, encoder -/

/-- R22: CMD_READY and BUSY are complements and follow MODE_OUT; the codes of MODE_OUT are those of R10; the other
ports equal their registers. The ports and the codes are decisions of the spec: D21, D3, D14. -/
def Obligations.PortsEqualTheirRegisters : Prop :=
  ∀ s : State,
    s.ports.dataOe = s.doe ∧ s.ports.dataOut = s.dout ∧ s.ports.lockOut = s.lock ∧ s.ports.ecOut = s.ec ∧
    s.ports.statusOut = s.sr ∧
    (s.ports.cmdReady = true ↔ s.mode = .idle) ∧ (s.ports.busy = true ↔ s.mode ≠ .idle) ∧
    (s.ports.modeOut = 0#2 ↔ s.mode = .idle) ∧ (s.ports.modeOut = 1#2 ↔ s.mode = .syncing) ∧
    (s.ports.modeOut = 2#2 ↔ s.mode = .reading) ∧ (s.ports.modeOut = 3#2 ↔ s.mode = .writing)

/-- R87, R161: whatever the environment may do at a state gives a next state, and so a run in which every stimulus is one
the environment may produce where it is met (and no reserved word is presented, R176) is never stopped.
The timer as an agent is a decision of the spec: D27; log 6. -/
def Obligations.EnvironmentIsNeverRefused : Prop :=
  (∀ clk s i, environmentMoveOk clk s i = true → ∃ t, exec i s = .next t) ∧
  (∀ n clk s, environmentOk n clk s = true → ∃ t, run n s = .next t)

/-- R156: coincident stimuli are taken `RESET` first, then `TMO`, then the clock edge, then a host command, none lost and
none added.
A decision of the spec: D17; log 13. -/
def Obligations.CoincidentStimuliAreOrdered : Prop :=
  (∀ c d k, coincidenceRank .reset < coincidenceRank (.tmo c) ∧
    coincidenceRank (.tmo c) < coincidenceRank (.rise d) ∧ coincidenceRank (.rise d) = coincidenceRank .fall ∧
    coincidenceRank .fall < coincidenceRank .init ∧ coincidenceRank .fall < coincidenceRank .sync ∧
    coincidenceRank .fall < coincidenceRank .rdst ∧ coincidenceRank .fall < coincidenceRank (.wrkey k)) ∧
  (∀ is, List.Perm (orderCoincident is) is ∧
    (orderCoincident is).Pairwise fun i j =>
      (j = .reset → i = .reset) ∧
      ((∃ c, j = .tmo c) → i = .reset ∨ ∃ c, i = .tmo c) ∧
      ((j = .fall ∨ ∃ d, j = .rise d) → i.isCommand = false))

/-- R132 and R46: an aligned `readStatus` under lock returns the packet's mask, having taken the packet's stimuli and no
more.
How a call is run is the model's: log 15. -/
def Obligations.AlignedReadStatusReturnsTheMask : Prop :=
  ∀ enc s (m : StatusWord) rest n,
    s.mode = .idle → s.lock = true → s.cfg.resyncEachTxn = false → s.presented = [] →
    s.stim = words (packet m) ++ rest →
    ∃ t, callRun enc .readStatus (33 + n) s = .next t ∧ callResult .readStatus t = some m ∧ t.machine.stim = rest ∧
      complete t.machine = true

/-- R134 with R132: the wait ends when Idle is read after the call's own command was accepted, whatever other callers
present meanwhile: their commands are held, the packet's mask is returned, and they still wait.
How a call is run is the model's: log 15; that they stand in a list is log 2. -/
def Obligations.HeldCommandsDoNotDelayTheReturn : Prop :=
  ∀ enc s (m : StatusWord) (js : List Instr) rest n,
    s.mode = .idle → s.lock = true → s.cfg.resyncEachTxn = false → s.presented = [] →
    (∀ j ∈ js, j.isCommand = true) → s.stim = words (js ++ packet m) ++ rest →
    ∃ t, callRun enc .readStatus (1 + js.length + 32 + n) s = .next t ∧ callDone t = true ∧
      callResult .readStatus t = some m ∧ t.machine.presented = js.map encode ∧ t.machine.stim = rest

/-- R132 with R47 (a), R123 and R173: a `readStatus` that has to synchronise first (as every first call after `RESET`) locks
after any number of failed attempts, and returns the mask of the packet that follows the lock.
How a call is run is the model's: log 15; NeedSync follows a decision of the spec: D8. -/
def Obligations.SynchronisingReadStatusReturnsTheMask : Prop :=
  ∀ enc s (m : StatusWord) (es : List (List Instr)) rest n,
    s.mode = .idle → s.lock = false ∨ s.cfg.resyncEachTxn = true → s.presented = [] →
    (∀ l ∈ es, ∀ i ∈ l, i = .fall ∨ ∃ d, i = .rise d) →
    s.stim = words (missedAttempts s.cfg es ++ lockSeq s.cfg ++ packet m) ++ rest →
    ∃ t, callRun enc .readStatus (1 + (missedAttempts s.cfg es).length + 2 + 32 + n) s = .next t ∧
      callResult .readStatus t = some m ∧ t.machine.lock = true ∧ t.machine.stim = rest ∧ complete t.machine = true

/-- R134 with R120: a call whose command the host withdraws, at whatever point of the call while it waits, never returns;
R176: a call whose command was accepted and which a `RESET` cuts short, at whatever point, is over, and hands nothing
over; so a read cut short after any number of edges short of its sixteenth `RISE`.
How a call is run is the model's: log 15. -/
def Obligations.CutShortCallsReturnNoResult : Prop :=
  (∀ enc c m n s u t p rest, callRun enc c m s = .next u → u.own = .waiting p → u.machine.mode ≠ .idle →
    u.machine.stim = .withdraw p :: rest → callRun enc c (m + 1 + n) s = .next t →
    t.own = .withdrawn ∧ callDone t = false) ∧
  (∀ enc c m n s u rest, callRun enc c m s = .next u → u.own = .accepted → u.machine.mode ≠ .idle →
    u.machine.stim = .word (encode .reset) :: rest →
    ∃ t, callRun enc c (m + 1 + n) s = .next t ∧ callDone t = true ∧ callResult c t = none ∧
      t.machine.stim = rest) ∧
  (∀ enc s n rest (es : List Instr), s.mode = .idle → s.lock = true → s.cfg.resyncEachTxn = false → s.presented = [] →
    (∀ i ∈ es, i = .fall ∨ ∃ d, i = .rise d) → (es.filter fun i => i ≠ .fall).length < 16 →
    s.stim = words (es ++ [.reset]) ++ rest →
    ∃ t, callRun enc .readStatus (1 + es.length + 1 + n) s = .next t ∧ callDone t = true ∧
      callResult .readStatus t = none ∧ t.machine.stim = rest)

/-- R131: a `writeKey` under lock returns at the thirty-second driver-phase edge, with the key's last bit still driven, a
read result still in SR and the stimuli after that edge not taken.
How a call is run is the model's: log 15. -/
def Obligations.WriteKeyReturnsAtTheLastBit : Prop :=
  ∀ enc s c rest n,
    s.mode = .idle → s.lock = true → s.cfg.resyncEachTxn = false → s.presented = [] →
    s.stim = words (cycles 32) ++ rest →
    ∃ t, callRun enc (.writeKey c) (64 + n) s = .next t ∧ callDone t = true ∧ complete t.machine = true ∧
      t.machine.ec = 32#6 ∧ t.machine.doe = true ∧
      t.machine.dout = (if s.cfg.keyInvert = true then enc c ^^^ 0xFF#8 else enc c).getLsbD 0 ∧
      t.machine.sr = s.sr ∧ t.machine.stim = .word (encode (.rise false)) :: rest

/-- R131 with R47 (a), R123 and R173: a `writeKey` that has to synchronise first (as every first call after `RESET`) locks
after any number of failed attempts, and returns at the thirty-second driver-phase edge after the lock.
How a call is run is the model's: log 15; NeedSync follows a decision of the spec: D8. -/
def Obligations.SynchronisingWriteKeyReturnsAtTheLastBit : Prop :=
  ∀ enc s c (es : List (List Instr)) rest n,
    s.mode = .idle → s.lock = false ∨ s.cfg.resyncEachTxn = true → s.presented = [] →
    (∀ l ∈ es, ∀ i ∈ l, i = .fall ∨ ∃ d, i = .rise d) →
    s.stim = words (missedAttempts s.cfg es ++ lockSeq s.cfg ++ cycles 32) ++ rest →
    ∃ t, callRun enc (.writeKey c) (1 + (missedAttempts s.cfg es).length + 2 + 63 + n) s = .next t ∧
      callDone t = true ∧ complete t.machine = true ∧ t.machine.lock = true ∧
      t.machine.ec = 32#6 ∧ t.machine.doe = true ∧
      t.machine.dout = (if s.cfg.keyInvert = true then enc c ^^^ 0xFF#8 else enc c).getLsbD 0 ∧
      t.machine.sr = s.sr ∧ t.machine.stim = .word (encode (.rise false)) :: rest

/-- R130 and R133: when an `init` or a `synchronize` call returns, `LOCK = 1`, whatever was in progress when it was made,
whatever other callers do, and whatever stimuli came meanwhile but `RESET`.
Decisions of the spec: D20, D23; how a call is run is the model's: log 15. -/
def Obligations.ReturnedSynchronisationHoldsTheLock : Prop :=
  ∀ enc c n s t, c = .init ∨ c = .synchronize → .word (encode .reset) ∉ s.stim →
    callRun enc c n s = .next t → callDone t = true → t.machine.lock = true

/-- R131 and R142: `writeKey` of a character outside the alphabet writes the sentinel 0x00 like any key; R144: the
sentinel is not the byte of any key of the alphabet. `Enc` is an argument, by D19; log 14. -/
def Obligations.SentinelIsWrittenButIsNoKey : Prop :=
  ∀ enc, EncoderContract enc →
    (∀ c, c ∉ keyAlphabet → callCommand enc (.writeKey c) = .wrkey 0x00#8) ∧
    (∀ c, c ∈ keyAlphabet → enc c ≠ 0x00#8 ∧ ((byteBits (enc c)).filter fun b => !b).length = 2)
end

