-- ==== Sys2Proof/Laws/State.lean ====
section
/-!
SUPPORT. What each shared update of the state does to each field: no later proof unfolds a record update.
-/

namespace Sys2Proof.Machine

/-! ### `State.release` -/

@[simp] theorem release_sr (s : State) : (s.release).sr = s.sr := rfl
@[simp] theorem release_wb (s : State) : (s.release).wb = s.wb := rfl
@[simp] theorem release_ec (s : State) : (s.release).ec = s.ec := rfl
@[simp] theorem release_mode (s : State) : (s.release).mode = s.mode := rfl
@[simp] theorem release_lock (s : State) : (s.release).lock = s.lock := rfl
@[simp] theorem release_pend (s : State) : (s.release).pend = s.pend := rfl
@[simp] theorem release_sph (s : State) : (s.release).sph = s.sph := rfl
@[simp] theorem release_doe (s : State) : (s.release).doe = false := rfl
@[simp] theorem release_dout (s : State) : (s.release).dout = s.dout := rfl
@[simp] theorem release_cfg (s : State) : (s.release).cfg = s.cfg := rfl
@[simp] theorem release_stim (s : State) : (s.release).stim = s.stim := rfl
@[simp] theorem release_presented (s : State) : (s.release).presented = s.presented := rfl
@[simp] theorem release_draws (s : State) : (s.release).draws = s.draws := rfl

/-! ### `State.drive` -/

@[simp] theorem drive_sr (v : Level) (s : State) : (s.drive v).sr = s.sr := rfl
@[simp] theorem drive_wb (v : Level) (s : State) : (s.drive v).wb = s.wb := rfl
@[simp] theorem drive_ec (v : Level) (s : State) : (s.drive v).ec = s.ec := rfl
@[simp] theorem drive_mode (v : Level) (s : State) : (s.drive v).mode = s.mode := rfl
@[simp] theorem drive_lock (v : Level) (s : State) : (s.drive v).lock = s.lock := rfl
@[simp] theorem drive_pend (v : Level) (s : State) : (s.drive v).pend = s.pend := rfl
@[simp] theorem drive_sph (v : Level) (s : State) : (s.drive v).sph = s.sph := rfl
@[simp] theorem drive_doe (v : Level) (s : State) : (s.drive v).doe = true := rfl
@[simp] theorem drive_dout (v : Level) (s : State) : (s.drive v).dout = v := rfl
@[simp] theorem drive_cfg (v : Level) (s : State) : (s.drive v).cfg = s.cfg := rfl
@[simp] theorem drive_stim (v : Level) (s : State) : (s.drive v).stim = s.stim := rfl
@[simp] theorem drive_presented (v : Level) (s : State) : (s.drive v).presented = s.presented := rfl
@[simp] theorem drive_draws (v : Level) (s : State) : (s.drive v).draws = s.draws := rfl

/-! ### `startSync` -/

@[simp] theorem startSync_sr (p : Option Dir) (s : State) : (startSync p s).sr = s.sr := rfl
@[simp] theorem startSync_wb (p : Option Dir) (s : State) : (startSync p s).wb = s.wb := rfl
@[simp] theorem startSync_ec (p : Option Dir) (s : State) : (startSync p s).ec = s.ec := rfl
@[simp] theorem startSync_mode (p : Option Dir) (s : State) : (startSync p s).mode = .syncing := rfl
@[simp] theorem startSync_lock (p : Option Dir) (s : State) : (startSync p s).lock = false := rfl
@[simp] theorem startSync_pend (p : Option Dir) (s : State) : (startSync p s).pend = p := rfl
@[simp] theorem startSync_sph (p : Option Dir) (s : State) : (startSync p s).sph = .armed := rfl
@[simp] theorem startSync_doe (p : Option Dir) (s : State) : (startSync p s).doe = s.doe := rfl
@[simp] theorem startSync_dout (p : Option Dir) (s : State) : (startSync p s).dout = s.dout := rfl
@[simp] theorem startSync_cfg (p : Option Dir) (s : State) : (startSync p s).cfg = s.cfg := rfl
@[simp] theorem startSync_stim (p : Option Dir) (s : State) : (startSync p s).stim = s.stim := rfl
@[simp] theorem startSync_presented (p : Option Dir) (s : State) : (startSync p s).presented = s.presented := rfl
@[simp] theorem startSync_draws (p : Option Dir) (s : State) : (startSync p s).draws = s.draws := rfl

/-! ### `hold` -/

@[simp] theorem hold_sr (i : Instr) (s : State) : (hold i s).sr = s.sr := rfl
@[simp] theorem hold_wb (i : Instr) (s : State) : (hold i s).wb = s.wb := rfl
@[simp] theorem hold_ec (i : Instr) (s : State) : (hold i s).ec = s.ec := rfl
@[simp] theorem hold_mode (i : Instr) (s : State) : (hold i s).mode = s.mode := rfl
@[simp] theorem hold_lock (i : Instr) (s : State) : (hold i s).lock = s.lock := rfl
@[simp] theorem hold_pend (i : Instr) (s : State) : (hold i s).pend = s.pend := rfl
@[simp] theorem hold_sph (i : Instr) (s : State) : (hold i s).sph = s.sph := rfl
@[simp] theorem hold_doe (i : Instr) (s : State) : (hold i s).doe = s.doe := rfl
@[simp] theorem hold_dout (i : Instr) (s : State) : (hold i s).dout = s.dout := rfl
@[simp] theorem hold_cfg (i : Instr) (s : State) : (hold i s).cfg = s.cfg := rfl
@[simp] theorem hold_stim (i : Instr) (s : State) : (hold i s).stim = s.stim := rfl
@[simp] theorem hold_presented (i : Instr) (s : State) : (hold i s).presented = s.presented ++ [encode i] := rfl
@[simp] theorem hold_draws (i : Instr) (s : State) : (hold i s).draws = s.draws := rfl

/-! ### `withdraw` -/

@[simp] theorem withdraw_sr (k : Nat) (s : State) : (withdraw k s).sr = s.sr := rfl
@[simp] theorem withdraw_wb (k : Nat) (s : State) : (withdraw k s).wb = s.wb := rfl
@[simp] theorem withdraw_ec (k : Nat) (s : State) : (withdraw k s).ec = s.ec := rfl
@[simp] theorem withdraw_mode (k : Nat) (s : State) : (withdraw k s).mode = s.mode := rfl
@[simp] theorem withdraw_lock (k : Nat) (s : State) : (withdraw k s).lock = s.lock := rfl
@[simp] theorem withdraw_pend (k : Nat) (s : State) : (withdraw k s).pend = s.pend := rfl
@[simp] theorem withdraw_sph (k : Nat) (s : State) : (withdraw k s).sph = s.sph := rfl
@[simp] theorem withdraw_doe (k : Nat) (s : State) : (withdraw k s).doe = s.doe := rfl
@[simp] theorem withdraw_dout (k : Nat) (s : State) : (withdraw k s).dout = s.dout := rfl
@[simp] theorem withdraw_cfg (k : Nat) (s : State) : (withdraw k s).cfg = s.cfg := rfl
@[simp] theorem withdraw_stim (k : Nat) (s : State) : (withdraw k s).stim = s.stim := rfl
@[simp] theorem withdraw_draws (k : Nat) (s : State) : (withdraw k s).draws = s.draws := rfl
@[simp] theorem withdraw_presented (k : Nat) (s : State) :
    (withdraw k s).presented = s.presented.eraseIdx k := rfl

/-! ### `drawUnspecified` -/

@[simp] theorem drawUnspecified_sr (s : State) : (drawUnspecified s).sr = Config.unspecSR s.draws := rfl
@[simp] theorem drawUnspecified_wb (s : State) : (drawUnspecified s).wb = Config.unspecWB s.draws := rfl
@[simp] theorem drawUnspecified_ec (s : State) : (drawUnspecified s).ec = Config.unspecEC s.draws := rfl
@[simp] theorem drawUnspecified_mode (s : State) : (drawUnspecified s).mode = s.mode := rfl
@[simp] theorem drawUnspecified_lock (s : State) : (drawUnspecified s).lock = s.lock := rfl
@[simp] theorem drawUnspecified_pend (s : State) : (drawUnspecified s).pend = s.pend := rfl
@[simp] theorem drawUnspecified_sph (s : State) : (drawUnspecified s).sph = s.sph := rfl
@[simp] theorem drawUnspecified_doe (s : State) : (drawUnspecified s).doe = s.doe := rfl
@[simp] theorem drawUnspecified_dout (s : State) : (drawUnspecified s).dout = Config.unspecDOUT s.draws := rfl
@[simp] theorem drawUnspecified_cfg (s : State) : (drawUnspecified s).cfg = s.cfg := rfl
@[simp] theorem drawUnspecified_stim (s : State) : (drawUnspecified s).stim = s.stim := rfl
@[simp] theorem drawUnspecified_presented (s : State) : (drawUnspecified s).presented = s.presented := rfl
@[simp] theorem drawUnspecified_draws (s : State) : (drawUnspecified s).draws = s.draws + 1 := rfl

/-! ### `readBit` -/

@[simp] theorem readBit_sr (d : Level) (s : State) : (readBit d s).sr = shiftIn s.sr d := rfl
@[simp] theorem readBit_wb (d : Level) (s : State) : (readBit d s).wb = s.wb := rfl
@[simp] theorem readBit_ec (d : Level) (s : State) : (readBit d s).ec = nextCount s.ec := rfl
@[simp] theorem readBit_mode (d : Level) (s : State) :
    (readBit d s).mode = if nextCount s.ec = 16#6 then .idle else s.mode := rfl
@[simp] theorem readBit_lock (d : Level) (s : State) : (readBit d s).lock = s.lock := rfl
@[simp] theorem readBit_pend (d : Level) (s : State) : (readBit d s).pend = s.pend := rfl
@[simp] theorem readBit_sph (d : Level) (s : State) : (readBit d s).sph = s.sph := rfl
@[simp] theorem readBit_doe (d : Level) (s : State) : (readBit d s).doe = false := rfl
@[simp] theorem readBit_dout (d : Level) (s : State) : (readBit d s).dout = s.dout := rfl
@[simp] theorem readBit_cfg (d : Level) (s : State) : (readBit d s).cfg = s.cfg := rfl
@[simp] theorem readBit_stim (d : Level) (s : State) : (readBit d s).stim = s.stim := rfl
@[simp] theorem readBit_presented (d : Level) (s : State) : (readBit d s).presented = s.presented := rfl
@[simp] theorem readBit_draws (d : Level) (s : State) : (readBit d s).draws = s.draws := rfl

/-! ### `writeBit` -/

@[simp] theorem writeBit_sr (s : State) : (writeBit s).sr = s.sr := rfl
@[simp] theorem writeBit_wb (s : State) : (writeBit s).wb = s.wb := rfl
@[simp] theorem writeBit_ec (s : State) : (writeBit s).ec = nextCount s.ec := rfl
@[simp] theorem writeBit_mode (s : State) : (writeBit s).mode = if nextCount s.ec = 32#6 then .idle else s.mode := rfl
@[simp] theorem writeBit_lock (s : State) : (writeBit s).lock = s.lock := rfl
@[simp] theorem writeBit_pend (s : State) : (writeBit s).pend = s.pend := rfl
@[simp] theorem writeBit_sph (s : State) : (writeBit s).sph = s.sph := rfl
@[simp] theorem writeBit_doe (s : State) : (writeBit s).doe = true := rfl
@[simp] theorem writeBit_dout (s : State) : (writeBit s).dout = driveBit s.wb s.ec := rfl
@[simp] theorem writeBit_cfg (s : State) : (writeBit s).cfg = s.cfg := rfl
@[simp] theorem writeBit_stim (s : State) : (writeBit s).stim = s.stim := rfl
@[simp] theorem writeBit_presented (s : State) : (writeBit s).presented = s.presented := rfl
@[simp] theorem writeBit_draws (s : State) : (writeBit s).draws = s.draws := rfl

/-! ### `placeNext` -/

@[simp] theorem placeNext_sr (w : StimWord) (s : State) : (placeNext w s).sr = s.sr := rfl
@[simp] theorem placeNext_wb (w : StimWord) (s : State) : (placeNext w s).wb = s.wb := rfl
@[simp] theorem placeNext_ec (w : StimWord) (s : State) : (placeNext w s).ec = s.ec := rfl
@[simp] theorem placeNext_mode (w : StimWord) (s : State) : (placeNext w s).mode = s.mode := rfl
@[simp] theorem placeNext_lock (w : StimWord) (s : State) : (placeNext w s).lock = s.lock := rfl
@[simp] theorem placeNext_pend (w : StimWord) (s : State) : (placeNext w s).pend = s.pend := rfl
@[simp] theorem placeNext_sph (w : StimWord) (s : State) : (placeNext w s).sph = s.sph := rfl
@[simp] theorem placeNext_doe (w : StimWord) (s : State) : (placeNext w s).doe = s.doe := rfl
@[simp] theorem placeNext_dout (w : StimWord) (s : State) : (placeNext w s).dout = s.dout := rfl
@[simp] theorem placeNext_cfg (w : StimWord) (s : State) : (placeNext w s).cfg = s.cfg := rfl
@[simp] theorem placeNext_stim (w : StimWord) (s : State) : (placeNext w s).stim = .word w :: s.stim := rfl
@[simp] theorem placeNext_draws (w : StimWord) (s : State) : (placeNext w s).draws = s.draws := rfl

/-! ### `startTxn` -/

@[simp] theorem startTxn_sr (p : Dir) (s : State) : (startTxn p s).sr = s.sr := by unfold startTxn; split <;> rfl
@[simp] theorem startTxn_wb (p : Dir) (s : State) : (startTxn p s).wb = s.wb := by unfold startTxn; split <;> rfl
@[simp] theorem startTxn_ec (p : Dir) (s : State) : (startTxn p s).ec = s.ec := by unfold startTxn; split <;> rfl
@[simp] theorem startTxn_doe (p : Dir) (s : State) : (startTxn p s).doe = s.doe := by unfold startTxn; split <;> rfl
@[simp] theorem startTxn_dout (p : Dir) (s : State) :
    (startTxn p s).dout = s.dout := by unfold startTxn; split <;> rfl
@[simp] theorem startTxn_cfg (p : Dir) (s : State) : (startTxn p s).cfg = s.cfg := by unfold startTxn; split <;> rfl
@[simp] theorem startTxn_stim (p : Dir) (s : State) :
    (startTxn p s).stim = s.stim := by unfold startTxn; split <;> rfl
@[simp] theorem startTxn_presented (p : Dir) (s : State) :
    (startTxn p s).presented = s.presented := by unfold startTxn; split <;> rfl
@[simp] theorem startTxn_draws (p : Dir) (s : State) :
    (startTxn p s).draws = s.draws := by unfold startTxn; split <;> rfl

/-! ### `syncEdge` -/

@[simp] theorem syncEdge_sr (pol : Edge) (s : State) : (syncEdge pol s).sr = s.sr := by unfold syncEdge; split <;> rfl
@[simp] theorem syncEdge_wb (pol : Edge) (s : State) : (syncEdge pol s).wb = s.wb := by unfold syncEdge; split <;> rfl
@[simp] theorem syncEdge_ec (pol : Edge) (s : State) : (syncEdge pol s).ec = s.ec := by unfold syncEdge; split <;> rfl
@[simp] theorem syncEdge_mode (pol : Edge) (s : State) :
    (syncEdge pol s).mode = s.mode := by unfold syncEdge; split <;> rfl
@[simp] theorem syncEdge_lock (pol : Edge) (s : State) :
    (syncEdge pol s).lock = s.lock := by unfold syncEdge; split <;> rfl
@[simp] theorem syncEdge_pend (pol : Edge) (s : State) :
    (syncEdge pol s).pend = s.pend := by unfold syncEdge; split <;> rfl
@[simp] theorem syncEdge_doe (pol : Edge) (s : State) :
    (syncEdge pol s).doe = s.doe := by unfold syncEdge; split <;> rfl
@[simp] theorem syncEdge_dout (pol : Edge) (s : State) :
    (syncEdge pol s).dout = s.dout := by unfold syncEdge; split <;> rfl
@[simp] theorem syncEdge_cfg (pol : Edge) (s : State) :
    (syncEdge pol s).cfg = s.cfg := by unfold syncEdge; split <;> rfl
@[simp] theorem syncEdge_stim (pol : Edge) (s : State) :
    (syncEdge pol s).stim = s.stim := by unfold syncEdge; split <;> rfl
@[simp] theorem syncEdge_presented (pol : Edge) (s : State) :
    (syncEdge pol s).presented = s.presented := by unfold syncEdge; split <;> rfl
@[simp] theorem syncEdge_draws (pol : Edge) (s : State) :
    (syncEdge pol s).draws = s.draws := by unfold syncEdge; split <;> rfl

/-! ### `settleExpire` -/

@[simp] theorem settleExpire_sr (c : Level) (s : State) :
    (settleExpire c s).sr = s.sr := by unfold settleExpire; split <;> rfl
@[simp] theorem settleExpire_wb (c : Level) (s : State) :
    (settleExpire c s).wb = s.wb := by unfold settleExpire; split <;> rfl
@[simp] theorem settleExpire_ec (c : Level) (s : State) :
    (settleExpire c s).ec = s.ec := by unfold settleExpire; split <;> rfl
@[simp] theorem settleExpire_sph (c : Level) (s : State) :
    (settleExpire c s).sph = .armed := by unfold settleExpire; split <;> rfl
@[simp] theorem settleExpire_doe (c : Level) (s : State) :
    (settleExpire c s).doe = s.doe := by unfold settleExpire; split <;> rfl
@[simp] theorem settleExpire_dout (c : Level) (s : State) :
    (settleExpire c s).dout = s.dout := by unfold settleExpire; split <;> rfl
@[simp] theorem settleExpire_cfg (c : Level) (s : State) :
    (settleExpire c s).cfg = s.cfg := by unfold settleExpire; split <;> rfl
@[simp] theorem settleExpire_stim (c : Level) (s : State) :
    (settleExpire c s).stim = s.stim := by unfold settleExpire; split <;> rfl
@[simp] theorem settleExpire_presented (c : Level) (s : State) :
    (settleExpire c s).presented = s.presented := by unfold settleExpire; split <;> rfl
@[simp] theorem settleExpire_draws (c : Level) (s : State) :
    (settleExpire c s).draws = s.draws := by unfold settleExpire; split <;> rfl

/-! ### `idleEdge` -/

@[simp] theorem idleEdge_sr (s : State) : (idleEdge s).sr = s.sr := by unfold idleEdge; split <;> rfl
@[simp] theorem idleEdge_wb (s : State) : (idleEdge s).wb = s.wb := by unfold idleEdge; split <;> rfl
@[simp] theorem idleEdge_ec (s : State) : (idleEdge s).ec = s.ec := by unfold idleEdge; split <;> rfl
@[simp] theorem idleEdge_mode (s : State) : (idleEdge s).mode = s.mode := by unfold idleEdge; split <;> rfl
@[simp] theorem idleEdge_lock (s : State) : (idleEdge s).lock = s.lock := by unfold idleEdge; split <;> rfl
@[simp] theorem idleEdge_pend (s : State) : (idleEdge s).pend = s.pend := by unfold idleEdge; split <;> rfl
@[simp] theorem idleEdge_sph (s : State) : (idleEdge s).sph = s.sph := by unfold idleEdge; split <;> rfl
@[simp] theorem idleEdge_cfg (s : State) : (idleEdge s).cfg = s.cfg := by unfold idleEdge; split <;> rfl
@[simp] theorem idleEdge_stim (s : State) : (idleEdge s).stim = s.stim := by unfold idleEdge; split <;> rfl
@[simp] theorem idleEdge_presented (s : State) :
    (idleEdge s).presented = s.presented := by unfold idleEdge; split <;> rfl
@[simp] theorem idleEdge_draws (s : State) : (idleEdge s).draws = s.draws := by unfold idleEdge; split <;> rfl

end Sys2Proof.Machine
end

