-- ==== Sys2Proof/Laws/Ops.lean ====
section
/-!
SUPPORT. One lemma for each shared operation that says once everything it can do, and the inversion of `exec` and of
`step` built from them.
-/

namespace Sys2Proof.Machine

/-- Acceptance (R120): the effect when Idle, the hold otherwise. -/
theorem accept_eq_next (i : Instr) (f : State → State) (s t : State) (h : accept i f s = .next t) :
    (s.mode = .idle ∧ t = f s) ∨ (s.mode ≠ .idle ∧ t = hold i s) := by
  unfold accept at h
  by_cases hm : s.mode = .idle
  · left
    simp only [hm, if_true, Host.Outcome.next.injEq] at h
    exact ⟨hm, h.symm⟩
  · right
    simp only [hm, if_false, Host.Outcome.next.injEq] at h
    exact ⟨hm, h.symm⟩

theorem accept_idle (i : Instr) (f : State → State) (s : State) (h : s.mode = .idle) :
    accept i f s = .next (f s) := by simp [accept, h]

theorem accept_busy (i : Instr) (f : State → State) (s : State) (h : s.mode ≠ .idle) :
    accept i f s = .next (hold i s) := by simp [accept, h]

/-- StartTxn (R123): a synchronisation with the direction pending, or the mode of the direction. -/
theorem startTxn_cases (p : Dir) (s : State) :
    (s.needSync = true ∧ startTxn p s = startSync (some p) s) ∨
    (s.needSync = false ∧ startTxn p s = { s with mode := dirMode p }) := by
  unfold startTxn
  cases h : s.needSync
  · right; simp
  · left; simp

/-- NeedSync is false exactly when the lock is held and no transaction re-synchronises (R122). -/
theorem needSync_eq_false (s : State) : s.needSync = false ↔ s.lock = true ∧ s.cfg.resyncEachTxn = false := by
  unfold State.needSync
  cases s.lock <;> cases s.cfg.resyncEachTxn <;> decide

/-- SyncEdge (R81): an armed edge of the right polarity starts the settle timer, any other does nothing. -/
theorem syncEdge_cases (pol : Edge) (s : State) :
    (s.sph = .armed ∧ pol = s.cfg.syncEdge ∧ syncEdge pol s = { s with sph := .settling }) ∨
    (¬(s.sph = .armed ∧ pol = s.cfg.syncEdge) ∧ syncEdge pol s = s) := by
  unfold syncEdge
  split
  · rename_i h
    exact .inl ⟨h.1, h.2, rfl⟩
  · rename_i h
    exact .inr ⟨h, rfl⟩

/-- TMO (R82): it locks, or it only re-arms. -/
theorem settleExpire_cases (c : Level) (s : State) :
    (c = s.cfg.syncLevel ∧ settleExpire c s =
      { s with lock := true, sph := .armed, mode := lockedMode s.pend, pend := none }) ∨
    (c ≠ s.cfg.syncLevel ∧ settleExpire c s = { s with sph := .armed }) := by
  unfold settleExpire
  split
  · rename_i h
    exact .inl ⟨h, rfl⟩
  · rename_i h
    exact .inr ⟨h, rfl⟩

/-- IdleEdge (R104): one of its three actions. -/
theorem idleEdge_cases (s : State) :
    (s.cfg.idleEdgeAction = .release ∧ idleEdge s = s.release) ∨
    (s.cfg.idleEdgeAction = .none ∧ idleEdge s = s) ∨
    (s.cfg.idleEdgeAction = .drivePassive ∧ idleEdge s = s.drive s.cfg.passiveLevel) := by
  unfold idleEdge
  cases h : s.cfg.idleEdgeAction <;> simp

/-- The settle timer runs exactly while Syncing and Settling (R27). -/
theorem settling_iff (s : State) : s.settling = true ↔ s.mode = .syncing ∧ s.sph = .settling := by
  simp [State.settling]

/-- `TMO` answers a next state only while the timer runs (R82). -/
theorem execTmo_eq_next (c : Level) (s t : State) (h : execTmo c s = .next t) :
    s.mode = .syncing ∧ s.sph = .settling ∧ t = settleExpire c s := by
  unfold execTmo at h
  split at h
  · rename_i hs
    have := (settling_iff s).1 hs
    simp only [Host.Outcome.next.injEq] at h
    exact ⟨this.1, this.2, h.symm⟩
  · cases h

/-- What `RISE` does (R100, R154). -/
theorem execRise_eq_next (d : Level) (s t : State) (h : execRise d s = .next t) :
    (s.mode = .syncing ∧ t = syncEdge .rising s) ∨ (s.mode = .reading ∧ t = readBit d s) ∨
    (s.mode = .writing ∧ t = s) ∨ (s.mode = .idle ∧ t = idleEdge s) := by
  unfold execRise at h
  simp only [Host.Outcome.next.injEq] at h
  cases hm : s.mode <;> simp_all

/-- What `FALL` does (R101, R154). -/
theorem execFall_eq_next (s t : State) (h : execFall s = .next t) :
    (s.mode = .syncing ∧ t = syncEdge .falling s) ∨ (s.mode = .writing ∧ t = writeBit s) ∨
    (s.mode = .reading ∧ t = s) ∨ (s.mode = .idle ∧ t = idleEdge s) := by
  unfold execFall at h
  simp only [Host.Outcome.next.injEq] at h
  cases hm : s.mode <;> simp_all

/-- What `RESET` does (R170). -/
theorem execReset_eq_next (s t : State) (h : execReset s = .next t) :
    t = { drawUnspecified s with mode := .idle, lock := false, pend := none, sph := .armed, doe := false } := by
  simpa [execReset, eq_comm] using h

/-- The inversion of `exec`: everything an operation can do when it answers a next state. -/
theorem exec_eq_next (i : Instr) (s t : State) (h : exec i s = .next t) :
    (i.isCommand = true ∧ s.mode ≠ .idle ∧ t = hold i s) ∨
    (i = .init ∧ s.mode = .idle ∧ t = startSync none s.release) ∨
    (i = .sync ∧ s.mode = .idle ∧ t = startSync none s) ∨
    (i = .rdst ∧ s.mode = .idle ∧ t = startTxn .read { s with ec := 0#6, sr := 0#16 }) ∨
    (∃ k, i = .wrkey k ∧ s.mode = .idle ∧
      t = startTxn .write { s with wb := rep4 (payload s.cfg.keyInvert k), ec := 0#6 }) ∨
    (∃ d, i = .rise d ∧ ((s.mode = .syncing ∧ t = syncEdge .rising s) ∨ (s.mode = .reading ∧ t = readBit d s) ∨
      (s.mode = .writing ∧ t = s) ∨ (s.mode = .idle ∧ t = idleEdge s))) ∨
    (i = .fall ∧ ((s.mode = .syncing ∧ t = syncEdge .falling s) ∨ (s.mode = .writing ∧ t = writeBit s) ∨
      (s.mode = .reading ∧ t = s) ∨ (s.mode = .idle ∧ t = idleEdge s))) ∨
    (∃ c, i = .tmo c ∧ s.mode = .syncing ∧ s.sph = .settling ∧ t = settleExpire c s) ∨
    (i = .reset ∧
      t = { drawUnspecified s with mode := .idle, lock := false, pend := none, sph := .armed, doe := false }) := by
  cases i with
  | init =>
    rcases accept_eq_next .init (fun t => startSync none t.release) s t h with ⟨a, b⟩ | ⟨a, b⟩ <;>
      simp [a, b, Instr.isCommand]
  | sync =>
    rcases accept_eq_next .sync (startSync none) s t h with ⟨a, b⟩ | ⟨a, b⟩ <;> simp [a, b, Instr.isCommand]
  | rdst =>
    rcases accept_eq_next .rdst (fun t => startTxn .read { t with ec := 0#6, sr := 0#16 }) s t h with
      ⟨a, b⟩ | ⟨a, b⟩ <;> simp [a, b, Instr.isCommand]
  | wrkey k =>
    rcases accept_eq_next (.wrkey k)
      (fun t => startTxn .write { t with wb := rep4 (payload t.cfg.keyInvert k), ec := 0#6 }) s t h with
      ⟨a, b⟩ | ⟨a, b⟩ <;> simp [a, b, Instr.isCommand]
  | rise d => simp [execRise_eq_next d s t h, Instr.isCommand]
  | fall => simp [execFall_eq_next s t h, Instr.isCommand]
  | tmo c => simp [execTmo_eq_next c s t h, Instr.isCommand]
  | reset => simp [execReset_eq_next s t h, Instr.isCommand]

/-- A caller is chosen among those that wait: the word is the one at its place, and the others stay (R56). -/
theorem chooseCaller_eq_some (ps ws : List StimWord) (k : Nat) (w : StimWord) (n m : Nat)
    (h : chooseCaller ps n = some (k, w, ws, m)) : ps[k]? = some w ∧ ws = ps.eraseIdx k := by
  match ps with
  | [] => cases h
  | [a] =>
    simp only [chooseCaller, Option.some.injEq, Prod.mk.injEq] at h
    obtain ⟨rfl, rfl, rfl, rfl⟩ := h
    simp
  | a :: b :: cs =>
    simp only [chooseCaller, Option.some.injEq, Prod.mk.injEq] at h
    obtain ⟨rfl, hw, rfl, -⟩ := h
    have hk : Config.callerChosen n % (cs.length + 2) < (a :: b :: cs).length := Nat.mod_lt _ (by omega)
    rw [List.getD_eq_getElem _ _ hk] at hw
    exact ⟨hw ▸ List.getElem?_eq_getElem hk, rfl⟩

/-- Someone is chosen exactly when someone waits (R56). -/
theorem chooseCaller_isSome (ps : List StimWord) (n : Nat) (h : ps ≠ []) : ∃ r, chooseCaller ps n = some r := by
  match ps with
  | [] => exact absurd rfl h
  | [a] => exact ⟨_, rfl⟩
  | a :: b :: cs => exact ⟨_, rfl⟩

/-- What the outside world does next: nothing, a word, or a withdrawal. -/
theorem fetchTrace_cases (s : State) :
    (s.stim = [] ∧ fetchTrace s = .nothing) ∨
    (∃ w ws, s.stim = .word w :: ws ∧ fetchTrace s = .inTrace w { s with stim := ws }) ∨
    (∃ k ws, s.stim = .withdraw k :: ws ∧ fetchTrace s = .withdrawn k (withdraw k { s with stim := ws })) := by
  unfold fetchTrace
  match h : s.stim with
  | [] => simp
  | .word w :: ws => simp
  | .withdraw k :: ws => simp

/-- While the block is busy, or nobody waits, the outside world moves (R68). -/
theorem fetch_eq_fetchTrace (s : State) (h : s.mode ≠ .idle ∨ s.presented = []) : fetch s = fetchTrace s := by
  unfold fetch
  cases hm : s.mode <;> simp_all [chooseCaller]

/-- A single waiting command is taken as soon as the block is Idle (R120). -/
theorem fetch_single (s : State) (w : StimWord) (hm : s.mode = .idle) (h : s.presented = [w]) :
    fetch s = .onPort 0 w { s with presented := [] } := by
  simp [fetch, hm, h, chooseCaller]

/-- Where the next stimulus comes from (R68, R120): a presented command when Idle, else the outside world. -/
theorem fetch_cases (s : State) :
    ((s.mode ≠ .idle ∨ s.presented = []) ∧ fetch s = fetchTrace s) ∨
    (s.mode = .idle ∧ ∃ k w ws n, chooseCaller s.presented s.draws = some (k, w, ws, n) ∧
      fetch s = .onPort k w { s with presented := ws, draws := n }) := by
  by_cases h : s.mode ≠ .idle ∨ s.presented = []
  · exact .inl ⟨h, fetch_eq_fetchTrace s h⟩
  · simp only [not_or, not_not] at h
    obtain ⟨⟨k, w, ws, n⟩, hc⟩ := chooseCaller_isSome s.presented s.draws h.2
    exact .inr ⟨h.1, k, w, ws, n, hc, by simp [fetch, h.1, hc]⟩

/-- What stands on the `CMD` port (R22): the waiting word that would be accepted or, when nobody waits, a `cls = 0` word of
the trace. -/
theorem cmd_eq_some (s : State) (w : StimWord) :
    s.cmd = some w ↔
      (∃ k ws n, chooseCaller s.presented s.draws = some (k, w, ws, n)) ∨
      (s.presented = [] ∧ ∃ ws, s.stim = .word w :: ws ∧ clsOf w = false) := by
  unfold State.cmd
  by_cases hp : s.presented = []
  · rw [hp]
    rcases fetchTrace_cases s with ⟨hs, -⟩ | ⟨v, ws, hs, -⟩ | ⟨k, ws, hs, -⟩
    · simp [chooseCaller, hs]
    · cases hc : clsOf v <;> simp [chooseCaller, hs, hc] <;> rintro rfl <;> simp [hc]
    · simp [chooseCaller, hs]
  · obtain ⟨⟨k, v, ws, n⟩, hc⟩ := chooseCaller_isSome s.presented s.draws hp
    simp [hc, hp]

/-- The placed word is the next one fetched. -/
theorem fetch_placeNext (w : StimWord) (s : State) :
    ∃ t, fetch (placeNext w s) = .inTrace w t ∧ Safety.SameBlock s t ∧ t.cfg = s.cfg ∧ t.stim = s.stim := by
  unfold fetch fetchTrace placeNext
  cases hm : s.mode <;> simp [chooseCaller, Safety.SameBlock, hm]

/-- The inversion of `step`: nothing happens, the host withdraws a command, a word of the trace runs, or a waiting command
is accepted. -/
theorem step_eq_next (s t : State) (h : step s = .next t) :
    (s.stim = [] ∧ t = s) ∨
    (∃ k ws, s.stim = .withdraw k :: ws ∧ t = withdraw k { s with stim := ws }) ∨
    (∃ w ws i, s.stim = .word w :: ws ∧ decode w = .ok i ∧ exec i { s with stim := ws } = .next t) ∨
    (s.mode = .idle ∧ ∃ k w ws n i, chooseCaller s.presented s.draws = some (k, w, ws, n) ∧
      decodeOnPort w = .ok i ∧ exec i { s with presented := ws, draws := n } = .next t) := by
  unfold step at h
  rcases fetch_cases s with ⟨-, hf⟩ | ⟨hm, k, w, ws, n, hc, hf⟩
  · rw [hf] at h
    rcases fetchTrace_cases s with ⟨hs, hf⟩ | ⟨w, ws, hs, hf⟩ | ⟨k, ws, hs, hf⟩ <;> rw [hf] at h
    · simp only [Host.Outcome.next.injEq] at h
      exact .inl ⟨hs, h.symm⟩
    · right; right; left
      cases hd : decode w with
      | ok i => exact ⟨w, ws, i, hs, hd, by simpa [runDecoded, hd] using h⟩
      | error r => simp [runDecoded, hd] at h
    · simp only [Host.Outcome.next.injEq] at h
      exact .inr (.inl ⟨k, ws, hs, h.symm⟩)
  · rw [hf] at h
    right; right; right
    cases hd : decodeOnPort w with
    | ok i => exact ⟨hm, k, w, ws, n, i, hc, hd, by simpa [runDecoded, hd] using h⟩
    | error r => simp [runDecoded, hd] at h

/-- What a step does to the block: nothing, or the meaning of an operation at a state whose block is the same. -/
theorem step_block (s t : State) (h : step s = .next t) :
    (Safety.SameBlock s t ∧ t.cfg = s.cfg) ∨ ∃ i u, exec i u = .next t ∧ Safety.SameBlock s u ∧ u.cfg = s.cfg := by
  rcases step_eq_next s t h with ⟨-, rfl⟩ | ⟨k, ws, -, rfl⟩ | ⟨w, ws, i, -, -, hx⟩ | ⟨-, k, w, ws, n, i, -, -, hx⟩
  · exact .inl (by simp [Safety.SameBlock])
  · exact .inl (by simp [Safety.SameBlock])
  · exact .inr ⟨i, _, hx, by simp [Safety.SameBlock], rfl⟩
  · exact .inr ⟨i, _, hx, by simp [Safety.SameBlock], rfl⟩

end Sys2Proof.Machine
end

