-- ==== Sys2Proof/Laws/PerInstr.lean ====
section
/-!
SUPPORT. The family `TableRow`, one lemma per constructor of Instr: the encoder's word carries its row's `word` under its
row's `mask` (`30_encoding.md` R62).
-/

namespace Sys2Proof.Laws.TableRow

/-- "A word `W` spells the operation of a row exactly when `W & mask = word & mask`" (R62): the encoder's word does. -/
def Statement (i : Instr) : Prop := encode i &&& rowMask i = rowWord i

theorem init : Statement .init := rfl
theorem sync : Statement .sync := rfl
theorem rdst : Statement .rdst := rfl
theorem wrkey (k : KeyCode) : Statement (.wrkey k) := by
  unfold Statement
  revert k
  decide
theorem rise (d : Level) : Statement (.rise d) := by cases d <;> rfl
theorem fall : Statement .fall := rfl
theorem tmo (c : Level) : Statement (.tmo c) := by cases c <;> rfl
theorem reset : Statement .reset := rfl

end Sys2Proof.Laws.TableRow
end

