-- ==== Sys2Proof/Laws/Run.lean ====
section
/-!
SUPPORT. Runs: the meanings under another trace, the step over a known word, `run` over appended numbers of steps, and
what a wait of a call can do.
-/

namespace Sys2Proof.Machine

/-! ### No meaning looks at what the outside world does next -/

theorem startTxn_withStim (p : Dir) (s : State) (ws : List Stimulus) :
    startTxn p { s with stim := ws } = { startTxn p s with stim := ws } := by
  have hn : State.needSync { s with stim := ws } = s.needSync := rfl
  unfold startTxn
  rw [hn]
  by_cases h : s.needSync = true
  · rw [if_pos h, if_pos h]
    rfl
  · rw [if_neg h, if_neg h]

theorem syncEdge_withStim (pol : Edge) (s : State) (ws : List Stimulus) :
    syncEdge pol { s with stim := ws } = { syncEdge pol s with stim := ws } := by
  simp only [syncEdge]
  split <;> rfl

theorem settleExpire_withStim (c : Level) (s : State) (ws : List Stimulus) :
    settleExpire c { s with stim := ws } = { settleExpire c s with stim := ws } := by
  simp only [settleExpire]
  split <;> rfl

theorem idleEdge_withStim (s : State) (ws : List Stimulus) :
    idleEdge { s with stim := ws } = { idleEdge s with stim := ws } := by
  simp only [idleEdge]
  split <;> rfl

/-- No meaning looks at what the outside world does next. -/
theorem exec_withStim (i : Instr) (s t : State) (ws : List Stimulus) (h : exec i s = .next t) :
    exec i { s with stim := ws } = .next { t with stim := ws } := by
  cases i with
  | init =>
    simp only [exec, execInit, accept, Host.Outcome.next.injEq] at h ⊢
    subst h
    by_cases hm : s.mode = .idle <;> simp only [hm, if_true, if_false] <;> rfl
  | sync =>
    simp only [exec, execSync, accept, Host.Outcome.next.injEq] at h ⊢
    subst h
    by_cases hm : s.mode = .idle <;> simp only [hm, if_true, if_false] <;> rfl
  | rdst =>
    simp only [exec, execRdst, accept, Host.Outcome.next.injEq] at h ⊢
    subst h
    by_cases hm : s.mode = .idle
    · rw [if_pos hm, if_pos hm]
      exact startTxn_withStim .read { s with ec := 0#6, sr := 0#16 } ws
    · rw [if_neg hm, if_neg hm]
      rfl
  | wrkey k =>
    simp only [exec, execWrkey, accept, Host.Outcome.next.injEq] at h ⊢
    subst h
    by_cases hm : s.mode = .idle
    · rw [if_pos hm, if_pos hm]
      exact startTxn_withStim .write { s with wb := rep4 (payload s.cfg.keyInvert k), ec := 0#6 } ws
    · rw [if_neg hm, if_neg hm]
      rfl
  | rise d =>
    simp only [exec, execRise, Host.Outcome.next.injEq] at h ⊢
    subst h
    obtain ⟨sr, wb, ec, mode, lock, pend, sph, doe, dout, cfg, stim, presented, draws⟩ := s
    cases mode with
    | syncing => exact syncEdge_withStim .rising _ ws
    | reading => rfl
    | writing => rfl
    | idle => exact idleEdge_withStim _ ws
  | fall =>
    simp only [exec, execFall, Host.Outcome.next.injEq] at h ⊢
    subst h
    obtain ⟨sr, wb, ec, mode, lock, pend, sph, doe, dout, cfg, stim, presented, draws⟩ := s
    cases mode with
    | syncing => exact syncEdge_withStim .falling _ ws
    | reading => rfl
    | writing => rfl
    | idle => exact idleEdge_withStim _ ws
  | tmo c =>
    obtain ⟨hm, hs, rfl⟩ := execTmo_eq_next c s t h
    have hr : State.settling { s with stim := ws } = true := (settling_iff _).2 ⟨hm, hs⟩
    simp only [exec, execTmo, hr, if_true, settleExpire_withStim]
  | reset =>
    rw [execReset_eq_next s t h]
    rfl

/-- While the block is busy, or nobody waits, the trace's word runs (R68). -/
theorem step_word (s : State) (i : Instr) (w : StimWord) (ws : List Stimulus) (h : s.mode ≠ .idle ∨ s.presented = [])
    (hs : s.stim = .word w :: ws) (hd : decode w = .ok i) : step s = exec i { s with stim := ws } := by
  simp [step, fetch_eq_fetchTrace s h, fetchTrace, hs, hd, runDecoded]

/-- The operation taken is then that of the word. -/
theorem taken_word (s : State) (i : Instr) (w : StimWord) (ws : List Stimulus) (h : s.mode ≠ .idle ∨ s.presented = [])
    (hs : s.stim = .word w :: ws) (hd : decode w = .ok i) : taken s = some i := by
  simp [taken, fetch_eq_fetchTrace s h, fetchTrace, hs, hd, Except.toOption]

/-- A withdrawal by the host (R176). -/
theorem step_withdraw (s : State) (k : Nat) (ws : List Stimulus) (h : s.mode ≠ .idle ∨ s.presented = [])
    (hs : s.stim = .withdraw k :: ws) : step s = .next (withdraw k { s with stim := ws }) := by
  simp [step, fetch_eq_fetchTrace s h, fetchTrace, hs]

/-- A run goes on where its first part ended. -/
theorem run_add (m n : Nat) (s t : State) (h : run m s = .next t) : run (m + n) s = run n t := by
  induction m generalizing s with
  | zero =>
    simp only [run, Host.Outcome.next.injEq] at h
    rw [h, Nat.zero_add]
  | succ m ih =>
    rw [Nat.succ_add]
    simp only [run] at h ⊢
    cases hx : step s with
    | next u => rw [hx] at h; exact ih u h
    | fault r => rw [hx] at h; cases h
    | refused r => rw [hx] at h; cases h

/-- The captured output of a run is that of its parts, one after the other (R71). -/
theorem captured_add (m n : Nat) (s t : State) (h : run m s = .next t) :
    captured (m + n) s = captured m s ++ captured n t := by
  induction m generalizing s with
  | zero =>
    simp only [run, Host.Outcome.next.injEq] at h
    simp [h, captured]
  | succ m ih =>
    rw [Nat.succ_add]
    simp only [run] at h
    simp only [captured]
    cases hx : step s with
    | next u => rw [hx] at h; simp [ih u h]
    | fault r => rw [hx] at h; cases h
    | refused r => rw [hx] at h; cases h

/-- A wait of a call that answers: it is over, or it has been watched for all its steps (R134). -/
theorem callWait_succ (n : Nat) (c d : CallState) (h : callWait (n + 1) c = .next d) :
    (callDone c = true ∧ d = c) ∨
    (callDone c = false ∧ ∃ t, step c.machine = .next t ∧
      callWait n { own := ownAfter c.own (fetch c.machine), resultHeld := resultHeldNext c.resultHeld c.machine,
                   machine := t } = .next d) := by
  unfold callWait at h
  cases hd : callDone c with
  | true => simp [hd] at h; exact .inl ⟨rfl, h.symm⟩
  | false =>
    right
    rw [hd] at h
    cases hx : step c.machine with
    | next t => rw [hx] at h; exact ⟨rfl, t, rfl, by simpa using h⟩
    | fault r => rw [hx] at h; simp at h
    | refused r => rw [hx] at h; simp at h

end Sys2Proof.Machine
end

