-- ==== Sys2Proof/Tests/Slice0.lean ====
section
/-!
SUPPORT. Tests. Expected results come from `95_test_vectors.md` (named V-… or P… in the comments) or from the rules by
hand; then, for every statement with hypotheses, a witness: a concrete state and operands that meet them.
-/

namespace Sys2Proof.Tests

open Sys2Proof.Machine Sys2Proof.Safety

/-- A small state: Idle under lock, the parameters at the values of `95_test_vectors.md`. -/
def base : State :=
  { sr := 0x1234#16, wb := 0x7D7D7D7D#32, ec := 16#6, mode := .idle, lock := true, pend := none, sph := .armed,
    doe := false, dout := false,
    cfg := { syncEdge := .rising, syncLevel := true, resyncEachTxn := false, keyInvert := false,
             idleEdgeAction := .release, passiveLevel := true },
    stim := [], presented := [], draws := 1 }

def syncingArmed : State := { base with mode := .syncing, lock := false }
def syncingSettling : State := { syncingArmed with sph := .settling }
def reading (n : EdgeCount) : State := { base with mode := .reading, ec := n }
def writing (n : EdgeCount) : State := { base with mode := .writing, ec := n, doe := true }

/-- The next state of an outcome, if it has one. -/
def nextOf : Host.Outcome State Fault Refusal → Option State
  | .next t => some t
  | .fault _ => none
  | .refused _ => none

/-- The refusal of an outcome, if it has one. -/
def refusalOf : Host.Outcome State Fault Refusal → Option Refusal
  | .next _ => none
  | .fault _ => none
  | .refused r => some r

/-! ## Encoding: V-E1, V-E3, and words written out from R60 and R62 -/

theorem test_decode_init : decode 0b000000000000#12 = .ok .init := by decide
theorem test_decode_sync : decode 0b000100000000#12 = .ok .sync := by decide
theorem test_decode_rdst : decode 0b001000000000#12 = .ok .rdst := by decide
theorem test_decode_wrkey : decode 0b001101111101#12 = .ok (.wrkey 0x7D#8) := by decide
theorem test_decode_rise : decode 0b100000000001#12 = .ok (.rise true) := by decide
theorem test_decode_fall : decode 0b100100000000#12 = .ok .fall := by decide
theorem test_decode_tmo : decode 0b101000000001#12 = .ok (.tmo true) := by decide
theorem test_decode_reset : decode 0b101100000000#12 = .ok .reset := by decide

/-- The invalid words of V-E1. -/
theorem test_decode_rejects :
    [0x001#12, 0x2FF#12, 0x802#12, 0x901#12, 0xA80#12, 0xB01#12].map decode =
      List.replicate 6 (.error .argumentNotZero) ∧
    [0x400#12, 0x7FF#12, 0xC00#12, 0xFFF#12].map decode = List.replicate 4 (.error .reservedOperation) := by decide

theorem test_port_rejects_event : decodeOnPort 0x900#12 = .error .eventOnCommandPort := by decide

/-- The table's numbering: the row WRKEY with its key code 0x7D, 12 bits held in 16. -/
theorem test_table_word : decodeTableWord 16 0x37D = some (.wrkey 0x7D#8) ∧ decodeTableWord 16 0x1000 = none := by decide

/-- V-E3: `PACKET 0xA5C3` begins 900 801 900 800 900 801 and has thirty-two words. -/
theorem test_packet_words :
    ((packet 0xA5C3#16).map encode).take 6 = [0x900#12, 0x801#12, 0x900#12, 0x800#12, 0x900#12, 0x801#12] ∧
    (packet 0xA5C3#16).length = 32 := by decide

theorem test_lockSeq_miss_words :
    (lockSeq base.cfg).map encode = [0x800#12, 0xA01#12] ∧ miss.map encode = [0x800#12, 0x900#12, 0xA00#12] := by decide

/-! ## Well-formedness: an ill-formed term for each check -/

theorem test_ill_formed_op : Fields.opAssigned { cls := true, op := 4#3, arg := 0#8 } = false := by decide
theorem test_ill_formed_arg : Fields.argClear { cls := true, op := 2#3, arg := 0x80#8 } = false := by decide
theorem test_ill_formed_port : Fields.classOfPort { cls := true, op := 1#3, arg := 0#8 } = false := by decide
theorem test_ill_formed_whole :
    Fields.wellFormed { cls := false, op := 0#3, arg := 1#8 } = false ∧
    Fields.wellFormedOnPort { cls := true, op := 1#3, arg := 0#8 } = false := by decide
theorem test_well_formed : Fields.wellFormedOnPort (fieldsOf 0x37D#12) = true := by decide

/-! ## One step each -/

/-- V-S1. -/
theorem test_sync_drops_lock :
    (nextOf (exec .sync base)).map (fun t => (t.mode, t.lock, t.pend, t.sr)) =
      some (.syncing, false, none, 0x1234#16) := by decide

/-- V-S6. -/
theorem test_tmo_locks_pending_write :
    (nextOf (exec (.tmo true) { syncingSettling with pend := some .write })).map (fun t => (t.mode, t.lock, t.pend)) =
      some (.writing, true, none) := by decide

/-- V-S8. -/
theorem test_tmo_not_enabled : refusalOf (exec (.tmo true) syncingArmed) = some .timerNotRunning := by decide

/-- V-R1. -/
theorem test_rise_shifts :
    (nextOf (exec (.rise true) { reading 3#6 with sr := 0x8001#16, doe := true })).map
      (fun t => (t.sr, t.ec, t.doe, t.mode)) = some (0x0003#16, 4#6, false, .reading) := by decide

/-- V-R2. -/
theorem test_rise_completes :
    (nextOf (exec (.rise true) { reading 15#6 with sr := 0x52E1#16 })).map (fun t => (t.sr, t.ec, t.mode)) =
      some (0xA5C3#16, 16#6, .idle) := by decide

/-- V-W1. -/
theorem test_fall_drives_msb :
    (nextOf (exec .fall { writing 0#6 with wb := 0xA5A5A5A5#32, doe := false })).map
      (fun t => (t.ec, t.doe, t.dout)) = some (1#6, true, true) := by decide

/-- V-W2. -/
theorem test_fall_completes :
    (nextOf (exec .fall (writing 31#6))).map (fun t => (t.mode, t.ec, t.doe, t.dout)) =
      some (.idle, 32#6, true, true) := by decide

/-- V-G6. -/
theorem test_init_releases :
    (nextOf (exec .init { base with doe := true, dout := true })).map (fun t => (t.mode, t.lock, t.doe, t.dout)) =
      some (.syncing, false, false, true) := by decide

/-- V-G1. -/
theorem test_rdst_clears :
    (nextOf (exec .rdst { base with sr := 0xBEEF#16, ec := 32#6 })).map (fun t => (t.mode, t.ec, t.sr, t.wb)) =
      some (.reading, 0#6, 0x0000#16, 0x7D7D7D7D#32) := by decide

/-- V-G4, its first step. -/
theorem test_rdst_resyncs :
    (nextOf (exec .rdst { base with cfg := { base.cfg with resyncEachTxn := true } })).map
      (fun t => (t.mode, t.lock, t.pend, t.sph)) = some (.syncing, false, some .read, .armed) := by decide

/-- V-G3. -/
theorem test_wrkey_builds_buffer :
    (nextOf (exec (.wrkey 0x7D#8) { base with wb := 0#32 })).map (fun t => (t.mode, t.ec, t.wb, t.sr)) =
      some (.writing, 0#6, 0x7D7D7D7D#32, 0x1234#16) := by decide

/-- V-W6, its first step. -/
theorem test_wrkey_inverts :
    (nextOf (exec (.wrkey 0x7D#8) { base with cfg := { base.cfg with keyInvert := true } })).map (·.wb) =
      some 0x82828282#32 := by decide

/-- V-X1. -/
theorem test_reset :
    (nextOf (exec .reset (writing 7#6))).map (fun t => (t.mode, t.sph, t.lock, t.pend, t.doe)) =
      some (.idle, .armed, false, none, false) := by decide

/-- The table of section 2.5 of `95_test_vectors.md`, from the state after the thirty-second `FALL` of `WRKEY 0xFE`. -/
theorem test_idle_edge_variants :
    [(IdleEdgeAction.release, true), (.none, true), (.drivePassive, true), (.drivePassive, false)].map (fun p =>
      (nextOf (exec (.rise false)
        { base with doe := true, cfg := { base.cfg with idleEdgeAction := p.1, passiveLevel := p.2 } })).map
          fun t => (t.doe, t.dout)) =
      [some (false, false), some (true, false), some (true, true), some (true, false)] := by decide

/-- V-S2, both settings. -/
theorem test_sync_edge_polarity :
    (nextOf (exec .fall syncingArmed)).map (·.sph) = some .armed ∧
    (nextOf (exec .fall { syncingArmed with cfg := { base.cfg with syncEdge := .falling } })).map (·.sph) =
      some .settling := by decide

/-- V-G5: a held command; P4: it is accepted at the first Idle state, before the stimulus written there. -/
theorem test_hold_then_accept :
    (nextOf (exec .rdst (reading 5#6))).map (fun t => (t.ec, t.presented)) = some (5#6, [0x200#12]) ∧
    (nextOf (step { base with presented := [0x200#12], stim := [.word 0x800#12] })).map
      (fun t => (t.mode, t.presented, t.stim)) = some (.reading, [], [.word 0x800#12]) := by decide

/-- R176: the host takes back the first of two waiting commands. -/
theorem test_withdraw :
    (nextOf (step { reading 5#6 with presented := [0x100#12, 0x200#12], stim := [.withdraw 0] })).map
      (fun t => (t.presented, t.ec, t.stim)) = some ([0x200#12], 5#6, []) := by decide

/-- R156: `RESET`, `TMO`, the edge, the command, from the reverse. -/
theorem test_coincident_order :
    orderCoincident [.rdst, .fall, .tmo true, .reset] = [.reset, .tmo true, .fall, .rdst] := by decide

/-- R134: a call whose command was accepted is over at Idle, though another command waits; a read cut short by `RESET`
hands nothing over (R176). -/
theorem test_call_over :
    callDone { own := .accepted, resultHeld := true, machine := { base with presented := [0x200#12] } } = true ∧
    callResult .readStatus { own := .accepted, resultHeld := false, machine := base } = none := by decide

/-- A table word runs as the first stimulus after reset, by the kernel's evaluation, whatever reset leaves unspecified. -/
theorem test_first_stimulus_after_reset :
    (nextOf (step (State.reset.withFetchWord 16 0x37D))).map (fun t => (t.mode, t.pend, t.wb)) =
      some (.syncing, some .write, 0x7D7D7D7D#32) := by decide

/-- The labels of R12: Zone1 is bit 15, Ready bit 7, Beep bit 0; the result of P1 has all three set. -/
theorem test_status_labels :
    [StatusLabel.zone1, .zone2, .ready, .beep].map (State.statusBit { base with sr := 0xA5C3#16 }) =
      [true, false, true, true] := by decide

/-! ## Witnesses: the hypotheses of the statements can be met -/

theorem witness_DecodeAndEncodeAreInverse : decode (encode (.wrkey 0xFF#8)) = .ok (.wrkey 0xFF#8) := by decide

theorem witness_WordSpellsItsTableRow : (0x3FF#12 &&& rowMask (.wrkey 0#8)) = rowWord (.wrkey 0#8) := by decide

theorem witness_ReservedWordsAreRefused :
    (decode 0x400#12 = .error .reservedOperation ∧ ({ base with stim := [.word 0x400#12] } : State).presented = []) ∧
    (clsOf 0x800#12 = true ∧ clsOf 0x7FF#12 = false) ∧
    (decodeOnPort 0x900#12 = .error .eventOnCommandPort ∧
      ({ base with presented := [0x900#12] } : State).mode = .idle) := by decide

theorem witness_StepRunsTheDecodedStimulus :
    ((reading 0#6).mode ≠ .idle ∧ decode 0x801#12 = .ok (.rise true)) ∧
    (({ base with presented := [0x200#12] } : State).mode = .idle ∧ decodeOnPort 0x200#12 = .ok .rdst) ∧
    (({ reading 0#6 with stim := [.withdraw 3] } : State).stim = .withdraw 3 :: []) ∧
    (base.presented = [] ∧ base.stim = []) := by decide

theorem witness_PlacedWordRunsNext : decodeTableWord 16 0xB00 = some .reset := by decide

theorem witness_SomeWaitingCallerIsServed :
    base.mode = .idle ∧ ({ base with presented := [0x200#12, 0x3FF#12] } : State).presented ≠ [] ∧
    decodeOnPort 0x200#12 = .ok .rdst ∧ decodeOnPort 0x3FF#12 = .ok (.wrkey 0xFF#8) := by decide

theorem witness_CommandsAreAcceptedWhenValidAndReady :
    (({ base with stim := [.word 0x200#12] } : State).cmdReady = true ∧
      ({ base with stim := [.word 0x200#12] } : State).cmd = some 0x200#12 ∧ decodeOnPort 0x200#12 = .ok .rdst) ∧
    (({ base with presented := [0x100#12], stim := [.word 0x200#12] } : State).cmd = some 0x100#12 ∧
      decodeOnPort 0x100#12 = .ok .sync) ∧
    (∃ t, step { base with presented := [0x100#12] } = .next t ∧ base.mode = .idle ∧ t.mode ≠ .idle) ∧
    (({ base with stim := [.word 0x900#12] } : State).cmdValid = false ∧
      taken { base with stim := [.word 0x900#12] } = some .fall) :=
  ⟨by decide, by decide, ⟨_, rfl, rfl, by decide⟩, by decide⟩

theorem witness_CommandsAreHeldWhileBusy : (reading 15#6).mode ≠ .idle ∧ Instr.isCommand .init = true := by decide

theorem witness_HeldCommandsAreNotLost :
    (reading 5#6).mode ≠ .idle ∧
    ∃ t, step { reading 5#6 with stim := [.word 0x200#12], presented := [0x100#12] } = .next t := ⟨by decide, _, rfl⟩

theorem witness_HeldCommandsAreNotLost_withdrawn :
    ∃ t, step { reading 5#6 with stim := [.withdraw 0], presented := [0x100#12] } = .next t := ⟨_, rfl⟩

theorem witness_HostMayWithdrawAHeldCommand :
    (Instr.isCommand .rdst = true ∧ (reading 5#6).mode ≠ .idle ∧ (reading 5#6).presented = [] ∧
      ({ reading 5#6 with stim := [.word (encode .rdst), .withdraw 0] } : State).stim =
        .word (encode .rdst) :: .withdraw (reading 5#6).presented.length :: []) ∧
    (base.mode = .idle ∧ base.presented = []) := by decide

theorem witness_AcceptanceIsTestAndSet :
    base.mode = .idle ∧ (writing 31#6).mode ≠ .idle ∧ Instr.isCommand (.wrkey 0#8) = true ∧
    ∃ t, exec (.wrkey 0#8) base = .next t := ⟨by decide, by decide, by decide, _, rfl⟩

theorem witness_InitReleasesAndSynchronises : base.mode = .idle ∧ syncingArmed.mode ≠ .idle := by decide

theorem witness_RdstStartsRead :
    (base.mode = .idle ∧ base.lock = true ∧ base.cfg.resyncEachTxn = false) ∧
    (({ base with lock := false } : State).mode = .idle ∧ ({ base with lock := false } : State).lock = false) ∧
    (reading 0#6).mode ≠ .idle := by decide

theorem witness_WrkeyStartsWrite :
    (base.mode = .idle ∧ base.lock = true ∧ base.cfg.resyncEachTxn = false) ∧
    (({ base with cfg := { base.cfg with resyncEachTxn := true } } : State).cfg.resyncEachTxn = true) ∧
    (writing 0#6).mode ≠ .idle := by decide

theorem witness_SyncAlwaysResynchronises :
    base.mode = .idle ∧ syncingSettling.mode ≠ .idle ∧
    ∀ i ∈ [Instr.fall, .rise false, .fall, .rdst], i ≠ .reset ∧ i ≠ .tmo true ∧ i ≠ .tmo false := by decide

theorem witness_TmoLocksOrRearms :
    (syncingSettling.mode = .syncing ∧ syncingSettling.sph = .settling ∧ true = syncingSettling.cfg.syncLevel ∧
      syncingSettling.pend = none ∧ ({ syncingSettling with pend := some .read } : State).pend = some .read ∧
      ({ syncingSettling with pend := some .write } : State).pend = some .write) ∧
    false ≠ syncingSettling.cfg.syncLevel ∧ syncingArmed.sph ≠ .settling ∧ (reading 0#6).mode ≠ .syncing := by decide

theorem witness_LockNeedsTheExpectedLevel :
    syncingArmed.mode = .syncing ∧ syncingArmed.lock = false ∧
    (∀ i ∈ miss, i ≠ .reset ∧ i ≠ .tmo syncingArmed.cfg.syncLevel) ∧
    ∃ t, execAll miss syncingArmed = .next t := ⟨by decide, by decide, by decide, _, rfl⟩

theorem witness_LockNeedsTheExpectedLevel_silent :
    syncingArmed.mode = .syncing ∧ syncingArmed.sph = .armed ∧
    (∀ i ∈ [Instr.fall, .rdst], i ≠ .reset ∧ (syncingArmed.cfg.syncEdge = .rising → ∀ d, i ≠ .rise d) ∧
      (syncingArmed.cfg.syncEdge = .falling → i ≠ .fall)) ∧
    ∃ t, execAll [.fall, .rdst] syncingArmed = .next t := ⟨rfl, rfl, by decide, _, rfl⟩

theorem witness_LockIsSetAndClearedOnlyAsStated :
    (syncingSettling.lock = false ∧ ∃ t, exec (.tmo true) syncingSettling = .next t ∧ t.lock = true) ∧
    (base.lock = true ∧ ∃ t, exec .init base = .next t ∧ t.lock = false) :=
  ⟨⟨by decide, _, rfl, by decide⟩, by decide, _, rfl, by decide⟩

/-- A synchronisation with a read pending, as `RDST` without lock and a sync edge leave it. -/
def settlingRead : State := { syncingSettling with pend := some .read, ec := 0#6, sr := 0#16 }

/-- A synchronisation with a write pending. -/
def settlingWrite : State := { syncingSettling with pend := some .write, ec := 0#6 }

theorem settlingRead_inv : BlockInv settlingRead := by constructor <;> decide
theorem settlingWrite_inv : BlockInv settlingWrite := by constructor <;> decide

theorem witness_TmoLocksOrRearms_handOff :
    (BlockInv settlingRead ∧ settlingRead.mode = .syncing ∧ settlingRead.pend = some .read) ∧
    (BlockInv settlingWrite ∧ settlingWrite.mode = .syncing ∧ settlingWrite.pend = some .write) ∧
    (settlingRead.lock = false ∧ ∃ t, exec (.tmo true) settlingRead = .next t ∧ t.lock = true) :=
  ⟨⟨settlingRead_inv, by decide⟩, ⟨settlingWrite_inv, by decide⟩, rfl, _, rfl, rfl⟩

theorem witness_HandOffLosesNoEdge :
    (BlockInv settlingRead ∧ settlingRead.mode = .syncing ∧ settlingRead.sph = .settling ∧
      settlingRead.pend = some .read) ∧
    (BlockInv settlingWrite ∧ settlingWrite.mode = .syncing ∧ settlingWrite.sph = .settling ∧
      settlingWrite.pend = some .write) :=
  ⟨⟨settlingRead_inv, by decide⟩, settlingWrite_inv, by decide⟩

theorem witness_RiseIsRoutedByMode :
    (syncingArmed.mode = .syncing ∧ syncingArmed.sph = .armed ∧ syncingArmed.cfg.syncEdge = .rising) ∧
    syncingSettling.sph ≠ .armed ∧ (reading 15#6).mode = .reading ∧ (writing 0#6).mode = .writing ∧
    base.mode = .idle ∧ base.cfg.idleEdgeAction = .release ∧
    ({ base.cfg with idleEdgeAction := .none } : Config).idleEdgeAction = .none ∧
    ({ base.cfg with idleEdgeAction := .drivePassive } : Config).idleEdgeAction = .drivePassive := by decide

theorem witness_FallIsRoutedByMode :
    ({ base.cfg with syncEdge := .falling } : Config).syncEdge = .falling ∧ syncingArmed.sph = .armed ∧
    syncingArmed.cfg.syncEdge ≠ .falling ∧ (writing 31#6).mode = .writing ∧ (writing 31#6).ec.toNat ≤ 31 ∧
    (reading 0#6).mode = .reading ∧ base.mode = .idle ∧ base.cfg.idleEdgeAction = .release := by decide

theorem witness_ReadCollectsSixteenSamplesInOrder :
    (reading 0#6).mode = .reading ∧ (reading 0#6).ec = 0#6 ∧
    ((2, true) :: List.replicate 15 (0, false) : List (Nat × Level)).length = 16 := by decide

theorem witness_WriteDrivesBufferMsbFirst :
    (writing 0#6).mode = .writing ∧ (writing 0#6).ec = 0#6 ∧ (writing 31#6).ec.toNat ≤ 31 ∧
    ([] :: List.replicate 31 [false] : List (List Level)).length = 32 := by decide

theorem witness_WriteShowsOnTheWires :
    (writing 0#6).mode = .writing ∧ (writing 0#6).ec = 0#6 ∧
    ({ writing 0#6 with stim := words (writeEdges (List.replicate 32 [])) } : State).stim =
      words (writeEdges (List.replicate 32 [])) ++ [] := by decide

theorem witness_KeyGoesOutFourTimes :
    base.mode = .idle ∧ base.lock = true ∧ base.cfg.resyncEachTxn = false ∧ base.presented = [] ∧
    ({ base with stim := words (.wrkey 1#8 :: cycles 32) } : State).stim = words (.wrkey 1#8 :: cycles 32) ++ [] := by
  decide

/-- A write as a panel clocks it: a `FALL`, then thirty-one times a `RISE` and a `FALL`. -/
def oneWrite : List (List Level) := [] :: List.replicate 31 [false]

/-- The second key is presented in the middle of the first write, between a `FALL` and the `RISE` after it; the second
write's first `FALL` has its own `RISE` before it, so that the clock alternates throughout (R22). -/
theorem witness_HeldKeyGoesOutNext :
    (base.mode = .idle ∧ base.lock = true ∧ base.cfg.resyncEachTxn = false ∧ base.presented = []) ∧
    (0x7D#8 = if base.cfg.keyInvert = true then 0x7D#8 ^^^ 0xFF#8 else 0x7D#8) ∧
    oneWrite.length = 32 ∧ (List.replicate 32 [false]).length = 32 ∧
    (writeEdges oneWrite).take 9 ++ (writeEdges oneWrite).drop 9 = writeEdges oneWrite ∧
    (writeEdges oneWrite).drop 9 ≠ [] := by decide

/-- The key may also be presented at once, or before the very last `FALL`. -/
theorem witness_HeldKeyGoesOutNext_ends :
    [] ++ writeEdges oneWrite = writeEdges oneWrite ∧ writeEdges oneWrite ≠ [] ∧
    (writeEdges oneWrite).take 62 ++ [.fall] = writeEdges oneWrite := by decide

/-- The first stimuli of that trace are ones the environment may produce, the clock resting HIGH. -/
theorem witness_HeldKeyGoesOutNext_environment :
    environmentOk 6 true
      { base with stim := words [.wrkey 1#8, .fall, .wrkey 2#8, .rise false, .fall, .rise false] } = true := by decide

theorem witness_MisalignedReadShiftsTheWindow :
    15 ≤ 15 ∧ 0 ≤ 15 ∧ (reading 0#6).mode = .reading ∧ (reading 0#6).ec = 0#6 := by decide

theorem witness_LastBitStaysDriven :
    (writing 31#6).mode = .writing ∧ (writing 31#6).ec = 31#6 ∧ (writing 31#6).cfg.idleEdgeAction = .release ∧
    (writing 31#6).lock = true ∧ (writing 31#6).cfg.resyncEachTxn = false := by decide

theorem witness_StalledClockFreezesTransaction :
    ((reading 5#6).mode = .reading ∧ ∀ i ∈ [Instr.fall, .init, .rdst], i.isCommand = true ∨ i = .fall) ∧
    ((writing 9#6).mode = .writing ∧ ∀ i ∈ [Instr.rise true, .sync], i.isCommand = true ∨ i = .rise true) := by
  decide

theorem witness_ModeMovesOnlyAlongTheGraph :
    (∃ t, exec .sync base = .next t ∧ t.mode ≠ base.mode) ∧ ModeArrow (reading 15#6) (.rise true) .idle ∧
    ModeArrow (writing 31#6) .fall .idle ∧
    (∃ t, exec .rdst { base with lock := false } = .next t ∧ t.mode = .syncing) ∧
    (∃ t, exec (.wrkey 2#8) { base with lock := false } = .next t ∧ t.mode = .syncing) :=
  ⟨⟨_, rfl, by decide⟩, .readDone true rfl rfl, .writeDone rfl rfl, ⟨_, rfl, by decide⟩, _, rfl, by decide⟩

theorem witness_CompletionIsSignalledInTheLastBitsStep :
    ((reading 15#6).mode = .reading ∧ (reading 15#6).ec = 15#6) ∧
    ((writing 31#6).mode = .writing ∧ (writing 31#6).ec = 31#6) ∧
    (∃ t, exec (.rise true) (reading 15#6) = .next t ∧ t.ports.busy = false) ∧
    (∃ t, exec .fall (writing 31#6) = .next t ∧ t.ports.cmdReady = true) :=
  ⟨⟨rfl, rfl⟩, ⟨rfl, rfl⟩, ⟨_, rfl, rfl⟩, _, rfl, rfl⟩

theorem reading_inv : BlockInv (reading 15#6) := by constructor <;> decide

theorem witness_EveryStepKeepsTheInvariant :
    BlockInv (reading 15#6) ∧ ∃ t, step { reading 15#6 with stim := [.word 0x801#12] } = .next t := ⟨reading_inv, _, rfl⟩

theorem witness_EdgeCountStaysWithinItsBound :
    (base.mode = .idle ∧ ∃ t, exec .rdst base = .next t) ∧
    (BlockInv (reading 15#6) ∧ (reading 15#6).ec.toNat ≤ 32 ∧ ∃ t, exec (.rise true) (reading 15#6) = .next t) :=
  ⟨⟨rfl, _, rfl⟩, reading_inv, by decide, _, rfl⟩

theorem witness_WriteBufferIsImmutable :
    (∃ t, exec (.wrkey 0#8) base = .next t ∧ t.wb ≠ base.wb) ∧
    ((writing 5#6).mode = .writing ∧ ∃ t, exec .fall (writing 5#6) = .next t) ∧
    (settlingWrite.mode = .syncing ∧ settlingWrite.pend = some .write ∧
      ∃ t, exec (.tmo true) settlingWrite = .next t) :=
  ⟨⟨_, rfl, by decide⟩, ⟨rfl, _, rfl⟩, rfl, rfl, _, rfl⟩

theorem witness_StatusIsWrittenOnlyByReads :
    (∃ t, exec .rdst base = .next t ∧ t.sr ≠ base.sr) ∧
    (∃ t, exec (.rise true) (reading 0#6) = .next t ∧ t.sr ≠ (reading 0#6).sr) :=
  ⟨⟨_, rfl, by decide⟩, _, rfl, by decide⟩

theorem witness_ReadResultLastsUntilTheNextRead :
    (BlockInv (reading 15#6) ∧ (reading 15#6).ec = 15#6 ∧ ∃ t, exec (.rise false) (reading 15#6) = .next t) ∧
    (base.mode ≠ .reading ∧ base.pend ≠ some .read ∧ (∃ t, exec (.wrkey 1#8) base = .next t) ∧
      resultHeldAfter true (.wrkey 1#8) base = true) ∧
    (resultHeldAfter true .rdst base = false ∧ resultHeldAfter true .rdst (writing 0#6) = true) :=
  ⟨⟨reading_inv, rfl, _, rfl⟩, ⟨by decide, by decide, ⟨_, rfl⟩, by decide⟩, by decide⟩

theorem witness_ContextsOwnDisjointIntervals :
    (Instr.isCommand .sync = true ∧ (writing 1#6).mode ≠ .idle ∧ ∃ t, exec .sync (writing 1#6) = .next t) ∧
    (base.mode = .idle ∧ ∃ t, exec .fall base = .next t) := ⟨⟨rfl, by decide, _, rfl⟩, rfl, _, rfl⟩

theorem witness_OutcomesAreAsStated :
    (∀ c, Instr.fall ≠ .tmo c) ∧ (syncingSettling.mode = .syncing ∧ syncingSettling.sph = .settling) ∧
    syncingArmed.sph ≠ .settling ∧ decode 0x7FF#12 = .error .reservedOperation := by decide

theorem witness_ParametersNeverChange :
    (∃ t, step { base with stim := [.word 0x900#12] } = .next t) ∧ ∃ t, exec .reset base = .next t := ⟨⟨_, rfl⟩, _, rfl⟩

theorem witness_EnvironmentIsNeverRefused :
    environmentMoveOk true syncingSettling (.tmo true) = true ∧
    environmentOk 5 false
      { syncingArmed with stim := words [.rise false, .fall, .tmo false, .rise false, .tmo true] } = true := by decide

theorem witness_HeldCommandsDoNotDelayTheReturn :
    base.mode = .idle ∧ base.lock = true ∧ base.cfg.resyncEachTxn = false ∧ base.presented = [] ∧
    (∀ j ∈ [Instr.rdst, .init], j.isCommand = true) ∧
    ({ base with stim := words ([.rdst, .init] ++ packet 1#16) } : State).stim =
      words ([.rdst, .init] ++ packet 1#16) ++ [] := by decide

/-- The encoder of the witnesses: any will do. -/
def anyEnc (_ : Char) : KeyCode := 0#8

theorem witness_CutShortCallsReturnNoResult_withdrawn :
    ∃ u t, callRun anyEnc .readStatus 1 { reading 3#6 with stim := [.word 0x900#12, .withdraw 0] } = .next u ∧
      u.own = .waiting 0 ∧ u.machine.mode ≠ .idle ∧ u.machine.stim = .withdraw 0 :: [] ∧
      callRun anyEnc .readStatus (1 + 1 + 0) { reading 3#6 with stim := [.word 0x900#12, .withdraw 0] } = .next t :=
  ⟨_, _, rfl, rfl, by decide, rfl, rfl⟩

theorem witness_CutShortCallsReturnNoResult_reset :
    ∃ u, callRun anyEnc .readStatus 2 { base with stim := words [.rise true, .reset] } = .next u ∧
      u.own = .accepted ∧ u.machine.mode ≠ .idle ∧ u.machine.stim = .word (encode .reset) :: [] :=
  ⟨_, rfl, rfl, by decide, rfl⟩

/-- Fifteen samples, and none. -/
theorem witness_CutShortCallsReturnNoResult_edges :
    (∀ es ∈ [List.replicate 15 (Instr.rise true), []], (es.filter fun i => i ≠ .fall).length < 16) ∧
    (∀ i ∈ List.replicate 15 (Instr.rise true), i = .fall ∨ i = .rise true) := by decide

theorem witness_SynchronisingReadStatusReturnsTheMask :
    ({ base with lock := false } : State).mode = .idle ∧ ({ base with lock := false } : State).lock = false ∧
    ({ base with lock := false } : State).presented = [] ∧
    (∀ l ∈ [[Instr.fall], []], ∀ i ∈ l, i = .fall) ∧ missedAttempts base.cfg [[.fall]] = miss := by decide

theorem witness_SynchronisingWriteKeyReturnsAtTheLastBit :
    base.mode = .idle ∧ ({ base.cfg with resyncEachTxn := true } : Config).resyncEachTxn = true ∧
    base.presented = [] := by decide

theorem witness_AlignedReadStatusReturnsTheMask :
    base.mode = .idle ∧ base.lock = true ∧ base.cfg.resyncEachTxn = false ∧ base.presented = [] ∧
    ({ base with stim := words (packet 0xA5C3#16) } : State).stim = words (packet 0xA5C3#16) ++ [] := by
  decide

theorem witness_WriteKeyReturnsAtTheLastBit :
    base.mode = .idle ∧ base.lock = true ∧ base.cfg.resyncEachTxn = false ∧ base.presented = [] ∧
    ({ base with stim := words (cycles 32) } : State).stim = words (cycles 32) ++ [] := by decide

theorem witness_ReturnedSynchronisationHoldsTheLock :
    .word (encode .reset) ∉ [Stimulus.word 0x800#12, .word 0xA01#12] ∧
    ∃ t, callRun (fun _ => 0#8) .init 3 { base with stim := [.word 0x800#12, .word 0xA01#12] } = .next t ∧ callDone t = true :=
  ⟨by decide, _, rfl, by decide⟩

/-- Some encoder meets the contract: every key at R position bit 7 and C position bit 6 (no real table is claimed, R145). -/
def someEncoder (c : Char) : KeyCode := if c ∈ keyAlphabet then 0x3F#8 else 0x00#8

theorem witness_SentinelIsWrittenButIsNoKey :
    EncoderContract someEncoder ∧ 'Z' ∉ keyAlphabet ∧ '5' ∈ keyAlphabet :=
  ⟨⟨fun c h => if_neg h, fun c h => by rw [someEncoder, if_pos h]; decide⟩, by decide, by decide⟩

end Sys2Proof.Tests
end

section
/-!
PROOFS. The synchronizer (`40_synchronizer.md`): what a Syncing block can do, and that without the expected level or a
sync edge it never ends (R85).
-/

namespace Sys2Proof.Machine

/-! ### Sequences of operations -/

/-- `execAll` answers only through a next state of its first operation. -/
theorem execAll_cons_eq_next (i : Instr) (es : List Instr) (s t : State) (h : execAll (i :: es) s = .next t) :
    ∃ u, exec i s = .next u ∧ execAll es u = .next t := by
  unfold execAll at h
  split at h
  next u hu => exact ⟨u, hu, h⟩
  next => cases h
  next => cases h

/-- A predicate that every allowed operation keeps holds wherever a sequence of allowed operations ends. -/
theorem execAll_keeps (P : State → Prop) (allowed : Instr → Prop)
    (keeps : ∀ i s t, allowed i → P s → exec i s = .next t → P t) (es : List Instr) (s t : State)
    (hes : ∀ i ∈ es, allowed i) (hs : P s) (h : execAll es s = .next t) : P t := by
  induction es generalizing s with
  | nil =>
    cases h
    exact hs
  | cons i es ih =>
    obtain ⟨hi, hes⟩ := List.forall_mem_cons.1 hes
    obtain ⟨u, hu, h⟩ := execAll_cons_eq_next i es s t h
    exact ih u hes (keeps i s u hi hs hu) h

/-! ### What a Syncing block can do -/

/-- The inversion of `exec` while Syncing: a hold, a clock edge, a `TMO` or a `RESET` (R80 to R82, R170). -/
theorem exec_syncing_eq_next (i : Instr) (s t : State) (hm : s.mode = .syncing) (h : exec i s = .next t) :
    t = hold i s ∨ (∃ d, i = .rise d ∧ t = syncEdge .rising s) ∨ (i = .fall ∧ t = syncEdge .falling s) ∨
    (∃ c, i = .tmo c ∧ s.sph = .settling ∧ t = settleExpire c s) ∨ i = .reset := by
  have busy : s.mode ≠ .idle := by simp [hm]
  rcases exec_eq_next i s t h with ⟨-, -, ht⟩ | ⟨-, idle, -⟩ | ⟨-, idle, -⟩ | ⟨-, idle, -⟩ | ⟨k, -, idle, -⟩ |
    ⟨d, hi, hr⟩ | ⟨hi, hf⟩ | ⟨c, hi, -, hs, ht⟩ | ⟨hi, -⟩
  · exact .inl ht
  · exact absurd idle busy
  · exact absurd idle busy
  · exact absurd idle busy
  · exact absurd idle busy
  · exact .inr (.inl ⟨d, hi, by simpa [hm] using hr⟩)
  · exact .inr (.inr (.inl ⟨hi, by simpa [hm] using hf⟩))
  · exact .inr (.inr (.inr (.inl ⟨c, hi, hs, ht⟩)))
  · exact .inr (.inr (.inr (.inr hi)))

/-- A `TMO` of the wrong level only re-arms (R82). -/
theorem settleExpire_wrongLevel (c : Level) (s : State) (h : c ≠ s.cfg.syncLevel) :
    settleExpire c s = { s with sph := .armed } := if_neg h

/-- An edge of the other polarity does nothing (R81). -/
theorem syncEdge_otherPolarity (pol : Edge) (s : State) (h : pol ≠ s.cfg.syncEdge) : syncEdge pol s = s :=
  if_neg fun ha => h ha.2

/-! ### Every attempt samples the wrong level -/

/-- The synchronisation of `s` is still running in `t`, without lock and with the same direction pending. -/
structure StillUnlocked (s t : State) : Prop where
  mode : t.mode = .syncing
  lock : t.lock = false
  pend : t.pend = s.pend
  cfg : t.cfg = s.cfg

/-- Only `RESET` and a `TMO` of the expected level end an unlocked synchronisation (R81, R82). -/
theorem exec_keeps_stillUnlocked (s : State) (i : Instr) (u t : State)
    (hi : i ≠ .reset ∧ i ≠ .tmo s.cfg.syncLevel) (hu : StillUnlocked s u) (h : exec i u = .next t) :
    StillUnlocked s t := by
  obtain ⟨hm, hl, hp, hc⟩ := hu
  obtain ⟨hreset, htmo⟩ := hi
  rcases exec_syncing_eq_next i u t hm h with rfl | ⟨d, -, rfl⟩ | ⟨-, rfl⟩ | ⟨c, rfl, -, rfl⟩ | rfl
  · exact ⟨hm, hl, hp, hc⟩
  · constructor <;> simpa
  · constructor <;> simpa
  · have hlevel : c ≠ u.cfg.syncLevel := fun e => htmo (by rw [e, hc])
    rw [settleExpire_wrongLevel c u hlevel]
    exact ⟨hm, hl, hp, hc⟩
  · exact absurd rfl hreset

/-! ### No sync edge arrives -/

/-- The operation is no edge of polarity SYNC_EDGE. -/
def NoSyncEdge (cfg : Config) (i : Instr) : Prop :=
  (cfg.syncEdge = .rising → ∀ d, i ≠ .rise d) ∧ (cfg.syncEdge = .falling → i ≠ .fall)

/-- While armed, without a sync edge or `RESET`, only the list of held commands can change (R81, R120). -/
theorem exec_armed_eq_next (i : Instr) (s t : State) (hm : s.mode = .syncing) (ha : s.sph = .armed)
    (hreset : i ≠ .reset) (hedge : NoSyncEdge s.cfg i) (h : exec i s = .next t) : t = s ∨ t = hold i s := by
  obtain ⟨hrise, hfall⟩ := hedge
  rcases exec_syncing_eq_next i s t hm h with rfl | ⟨d, rfl, rfl⟩ | ⟨rfl, rfl⟩ | ⟨c, -, hs, -⟩ | rfl
  · exact .inr rfl
  · exact .inl (syncEdge_otherPolarity _ s fun e => hrise e.symm d rfl)
  · exact .inl (syncEdge_otherPolarity _ s fun e => hfall e.symm rfl)
  · simp [ha] at hs
  · exact absurd rfl hreset

/-- `t` has the block and the parameters of `s`. -/
structure Unmoved (s t : State) : Prop where
  block : Safety.SameBlock s t
  cfg : t.cfg = s.cfg

/-- An armed block stands still until a sync edge or a `RESET`. -/
theorem exec_keeps_unmoved (s : State) (hm : s.mode = .syncing) (ha : s.sph = .armed) (i : Instr) (u t : State)
    (hi : i ≠ .reset ∧ NoSyncEdge s.cfg i) (hu : Unmoved s u) (h : exec i u = .next t) : Unmoved s t := by
  obtain ⟨hreset, hedge⟩ := hi
  obtain ⟨-, -, -, hmode, -, -, hsph, -, -⟩ := hu.block
  rcases exec_armed_eq_next i u t (hmode.trans hm) (hsph.trans ha) hreset (hu.cfg ▸ hedge) h with rfl | rfl
  · exact hu
  · exact ⟨hu.block, hu.cfg⟩

/-! ### O18 -/

/-- Settles O18: both parts by the invariant of the sequence, `StillUnlocked` and `Unmoved`. -/
theorem lockNeedsTheExpectedLevel : Obligations.LockNeedsTheExpectedLevel := by
  constructor
  · intro es s t hm hl hes h
    have ht : StillUnlocked s t :=
      execAll_keeps (StillUnlocked s) _ (exec_keeps_stillUnlocked s) es s t hes ⟨hm, hl, rfl, rfl⟩ h
    exact ⟨ht.mode, ht.lock, ht.pend⟩
  · intro es s t hm ha hes h
    have ht : Unmoved s t :=
      execAll_keeps (Unmoved s) _ (exec_keeps_unmoved s hm ha) es s t hes ⟨by simp [Safety.SameBlock], rfl⟩ h
    obtain ⟨-, -, -, hmode, -⟩ := ht.block
    exact ⟨hmode.trans hm, ht.block⟩

end Sys2Proof.Machine
end

section
/-!
PROOFS. The transition graph of MODE (`41_frame_engine.md` R110), and the step that completes a transaction (R106): it is
an arrow of that graph.
-/

namespace Sys2Proof.Machine

open Safety

/-! ### The operations that move MODE -/

/-- `INIT` in Idle (R121). -/
theorem exec_init_idle (s : State) (idle : s.mode = .idle) : exec .init s = .next (startSync none s.release) :=
  accept_idle .init (fun t => startSync none t.release) s idle

/-- `SYNC` in Idle (R80). -/
theorem exec_sync_idle (s : State) (idle : s.mode = .idle) : exec .sync s = .next (startSync none s) :=
  accept_idle .sync (startSync none) s idle

/-- `RDST` in Idle (R124). -/
theorem exec_rdst_idle (s : State) (idle : s.mode = .idle) :
    exec .rdst s = .next (startTxn .read { s with ec := 0#6, sr := 0#16 }) :=
  accept_idle .rdst (fun t => startTxn .read { t with ec := 0#6, sr := 0#16 }) s idle

/-- `WRKEY k` in Idle (R125). -/
theorem exec_wrkey_idle (k : KeyCode) (s : State) (idle : s.mode = .idle) :
    exec (.wrkey k) s = .next (startTxn .write { s with wb := rep4 (payload s.cfg.keyInvert k), ec := 0#6 }) :=
  accept_idle (.wrkey k) (fun t => startTxn .write { t with wb := rep4 (payload t.cfg.keyInvert k), ec := 0#6 }) s idle

/-- `TMO c` while the timer runs (R82). -/
theorem exec_tmo_settling (c : Level) (s : State) (hs : s.settling = true) :
    exec (.tmo c) s = .next (settleExpire c s) := if_pos hs

/-- `RISE d` while Reading (R100). -/
theorem exec_rise_reading (d : Level) (s : State) (hm : s.mode = .reading) :
    exec (.rise d) s = .next (readBit d s) := by
  simp only [exec, execRise, hm]

/-- `FALL` while Writing (R101). -/
theorem exec_fall_writing (s : State) (hm : s.mode = .writing) : exec .fall s = .next (writeBit s) := by
  simp only [exec, execFall, hm]

/-! ### What the shared operations do to MODE -/

/-- StartTxn synchronises first under NeedSync (R123). -/
theorem startTxn_mode_of_needSync (p : Dir) (s : State) (hn : s.needSync = true) :
    (startTxn p s).mode = .syncing := by
  rw [startTxn, if_pos hn, startSync_mode]

/-- StartTxn goes straight to the transaction otherwise (R123). -/
theorem startTxn_mode_of_not_needSync (p : Dir) (s : State) (hn : s.needSync = false) :
    (startTxn p s).mode = dirMode p := by
  simp [startTxn, hn]

/-- A transaction that begins with a synchronisation has its direction pending (R123, R17). -/
theorem startTxn_pend_of_syncing (p : Dir) (s : State) (h : (startTxn p s).mode = .syncing) :
    (startTxn p s).pend = some p := by
  rcases startTxn_cases p s with ⟨-, ht⟩ | ⟨-, ht⟩
  · rw [ht, startSync_pend]
  · rw [ht] at h
    cases p <;> cases h

/-- A `TMO` of the expected level ends the synchronisation in the mode of the pending direction (R82). -/
theorem settleExpire_mode_locked (c : Level) (s : State) (h : c = s.cfg.syncLevel) :
    (settleExpire c s).mode = lockedMode s.pend := by
  rw [settleExpire, if_pos h]

/-- The counter reaches `n` from `n - 1` only (R109). -/
theorem nextCount_eq_iff (ec n : EdgeCount) : nextCount ec = n ↔ ec = n - 1#6 :=
  BitVec.eq_sub_iff_add_eq.symm

/-- ReadBit keeps MODE but for the sixteenth bit, which ends the read (R102). -/
theorem readBit_mode_cases (d : Level) (s : State) :
    (s.ec = 15#6 ∧ (readBit d s).mode = .idle) ∨ (s.ec ≠ 15#6 ∧ (readBit d s).mode = s.mode) := by
  have last : nextCount s.ec = 16#6 ↔ s.ec = 15#6 := nextCount_eq_iff s.ec 16#6
  by_cases h : s.ec = 15#6
  · exact .inl ⟨h, if_pos (last.2 h)⟩
  · exact .inr ⟨h, if_neg (mt last.1 h)⟩

/-- WriteBit keeps MODE but for the thirty-second bit, which ends the write (R103). -/
theorem writeBit_mode_cases (s : State) :
    (s.ec = 31#6 ∧ (writeBit s).mode = .idle) ∨ (s.ec ≠ 31#6 ∧ (writeBit s).mode = s.mode) := by
  have last : nextCount s.ec = 32#6 ↔ s.ec = 31#6 := nextCount_eq_iff s.ec 32#6
  by_cases h : s.ec = 31#6
  · exact .inl ⟨h, if_pos (last.2 h)⟩
  · exact .inr ⟨h, if_neg (mt last.1 h)⟩

/-! ### The graph is complete: every change of MODE is an arrow -/

/-- The arrows of an accepted `RDST` (R110). -/
theorem modeArrow_rdst (s : State) (idle : s.mode = .idle) :
    ModeArrow s .rdst (startTxn .read { s with ec := 0#6, sr := 0#16 }).mode := by
  rcases startTxn_cases .read { s with ec := 0#6, sr := 0#16 } with ⟨hn, ht⟩ | ⟨hn, ht⟩ <;> rw [ht]
  · exact .rdstSyncing idle hn
  · exact .rdstReading idle hn

/-- The arrows of an accepted `WRKEY` (R110). -/
theorem modeArrow_wrkey (k : KeyCode) (s : State) (idle : s.mode = .idle) :
    ModeArrow s (.wrkey k)
      (startTxn .write { s with wb := rep4 (payload s.cfg.keyInvert k), ec := 0#6 }).mode := by
  rcases startTxn_cases .write { s with wb := rep4 (payload s.cfg.keyInvert k), ec := 0#6 } with
    ⟨hn, ht⟩ | ⟨hn, ht⟩ <;> rw [ht]
  · exact .wrkeySyncing k idle hn
  · exact .wrkeyWriting k idle hn

/-- The arrows of a `TMO` of the expected level, by PEND (R110). -/
theorem modeArrow_tmo (c : Level) (s : State) (hs : s.settling = true) (hc : c = s.cfg.syncLevel) :
    ModeArrow s (.tmo c) (lockedMode s.pend) := by
  cases hp : s.pend with
  | none => exact .tmoIdle c hs hc hp
  | some p =>
    cases p with
    | read => exact .tmoReading c hs hc hp
    | write => exact .tmoWriting c hs hc hp

/-- A change of MODE is an arrow of the graph (R110). -/
theorem modeArrow_of_mode_ne (i : Instr) (s t : State) (h : exec i s = .next t) (hne : t.mode ≠ s.mode) :
    ModeArrow s i t.mode := by
  rcases exec_eq_next i s t h with ⟨-, -, rfl⟩ | ⟨rfl, idle, rfl⟩ | ⟨rfl, idle, rfl⟩ | ⟨rfl, idle, rfl⟩ |
    ⟨k, rfl, idle, rfl⟩ | ⟨d, rfl, hrise⟩ | ⟨rfl, hfall⟩ | ⟨c, rfl, hm, hs, rfl⟩ | ⟨rfl, rfl⟩
  · exact absurd (hold_mode i s) hne
  · exact .initSyncing idle
  · exact .syncSyncing idle
  · exact modeArrow_rdst s idle
  · exact modeArrow_wrkey k s idle
  · rcases hrise with ⟨-, rfl⟩ | ⟨hm, rfl⟩ | ⟨-, rfl⟩ | ⟨-, rfl⟩
    · exact absurd (syncEdge_mode .rising s) hne
    · rcases readBit_mode_cases d s with ⟨hec, ht⟩ | ⟨-, ht⟩
      · exact ht ▸ .readDone d hm hec
      · exact absurd ht hne
    · exact absurd rfl hne
    · exact absurd (idleEdge_mode s) hne
  · rcases hfall with ⟨-, rfl⟩ | ⟨hm, rfl⟩ | ⟨-, rfl⟩ | ⟨-, rfl⟩
    · exact absurd (syncEdge_mode .falling s) hne
    · rcases writeBit_mode_cases s with ⟨hec, ht⟩ | ⟨-, ht⟩
      · exact ht ▸ .writeDone hm hec
      · exact absurd ht hne
    · exact absurd rfl hne
    · exact absurd (idleEdge_mode s) hne
  · rcases settleExpire_cases c s with ⟨hc, ht⟩ | ⟨-, ht⟩
    · exact ht ▸ modeArrow_tmo c s ((settling_iff s).2 ⟨hm, hs⟩) hc
    · exact absurd (congrArg State.mode ht) hne
  · exact .reset

/-! ### Every arrow is a step -/

/-- An arrow of the graph is a step to its mode (R110). -/
theorem exec_of_modeArrow (i : Instr) (s : State) (m : BusMode) (h : ModeArrow s i m) :
    ∃ t, exec i s = .next t ∧ t.mode = m := by
  cases h with
  | initSyncing idle => exact ⟨_, exec_init_idle s idle, rfl⟩
  | syncSyncing idle => exact ⟨_, exec_sync_idle s idle, rfl⟩
  | rdstSyncing idle hn => exact ⟨_, exec_rdst_idle s idle, startTxn_mode_of_needSync .read _ hn⟩
  | rdstReading idle hn => exact ⟨_, exec_rdst_idle s idle, startTxn_mode_of_not_needSync .read _ hn⟩
  | wrkeySyncing k idle hn => exact ⟨_, exec_wrkey_idle k s idle, startTxn_mode_of_needSync .write _ hn⟩
  | wrkeyWriting k idle hn => exact ⟨_, exec_wrkey_idle k s idle, startTxn_mode_of_not_needSync .write _ hn⟩
  | tmoIdle c hs hc hp
  | tmoReading c hs hc hp
  | tmoWriting c hs hc hp =>
    exact ⟨_, exec_tmo_settling c s hs, (settleExpire_mode_locked c s hc).trans (congrArg lockedMode hp)⟩
  | readDone d hm hec => exact ⟨_, exec_rise_reading d s hm, by simpa [hec] using readBit_mode_cases d s⟩
  | writeDone hm hec => exact ⟨_, exec_fall_writing s hm, by simpa [hec] using writeBit_mode_cases s⟩
  | reset => exact ⟨_, rfl, rfl⟩

/-! ### O31 -/

/-- Settles O31: the inversion of `exec` gives the arrows, and StartTxn's two branches the pending direction. -/
theorem modeMovesOnlyAlongTheGraph : Obligations.ModeMovesOnlyAlongTheGraph := by
  refine ⟨modeArrow_of_mode_ne, exec_of_modeArrow, ?_, ?_⟩
  · intro s t idle h hsync
    rw [exec_rdst_idle s idle] at h
    cases h
    exact startTxn_pend_of_syncing .read _ hsync
  · intro s t k idle h hsync
    rw [exec_wrkey_idle k s idle] at h
    cases h
    exact startTxn_pend_of_syncing .write _ hsync

/-! ### Completion is an arrow to Idle -/

/-- BUSY falls exactly in Idle (R21). -/
@[simp] theorem ports_busy_eq_false (s : State) : s.ports.busy = false ↔ s.mode = .idle := by
  simp [State.ports, State.busy]

/-- CMD_READY is the negation of BUSY (R21, R22). -/
@[simp] theorem ports_cmdReady (s : State) : s.ports.cmdReady = !s.ports.busy := by
  simp [State.ports, State.busy, State.cmdReady, bne]

/-- The arrows that lead to Idle from a transaction: the last bit of a read or a write, and `RESET` (R106, R110). -/
theorem modeArrow_idle_of_transaction (i : Instr) (s : State) (hm : s.mode = .reading ∨ s.mode = .writing)
    (h : ModeArrow s i .idle) :
    i = .reset ∨ (s.mode = .reading ∧ s.ec = 15#6 ∧ ∃ d, i = .rise d) ∨
      (s.mode = .writing ∧ s.ec = 31#6 ∧ i = .fall) := by
  cases h with
  | tmoIdle c hs _ _ =>
    obtain ⟨syncing, -⟩ := (settling_iff s).1 hs
    simp [syncing] at hm
  | readDone d hr hec => exact .inr (.inl ⟨hr, hec, d, rfl⟩)
  | writeDone hw hec => exact .inr (.inr ⟨hw, hec, rfl⟩)
  | reset => exact .inl rfl

/-- What the ports show around an arrow from a busy block to Idle (R106). -/
theorem ports_of_modeArrow_idle (i : Instr) (s : State) (busy : s.mode ≠ .idle) (h : ModeArrow s i .idle) :
    s.ports.busy = true ∧ s.ports.cmdReady = false ∧
    ∃ t, exec i s = .next t ∧ t.mode = .idle ∧ t.ports.busy = false ∧ t.ports.cmdReady = true := by
  have before : s.ports.busy = true := by simpa [← Bool.not_eq_false] using busy
  obtain ⟨t, ht, idle⟩ := exec_of_modeArrow i s .idle h
  have after : t.ports.busy = false := (ports_busy_eq_false t).2 idle
  exact ⟨before, by simp [before], t, ht, idle, after, by simp [after]⟩

/-! ### O32 -/

/-- Settles O32: the last bit's step is an arrow of O31's graph, and the graph has no other arrow but `RESET` from a
transaction to Idle. -/
theorem completionIsSignalledInTheLastBitsStep : Obligations.CompletionIsSignalledInTheLastBitsStep := by
  refine ⟨?_, ?_, ?_⟩
  · intro s d hm hec
    exact ports_of_modeArrow_idle (.rise d) s (by simp [hm]) (.readDone d hm hec)
  · intro s hm hec
    exact ports_of_modeArrow_idle .fall s (by simp [hm]) (.writeDone hm hec)
  · intro i s t hm h hports
    have idle : t.mode = .idle := by simpa using hports
    have moved : t.mode ≠ s.mode := by rcases hm with hm | hm <;> simp [idle, hm]
    exact modeArrow_idle_of_transaction i s hm (idle ▸ modeArrow_of_mode_ne i s t h moved)

end Sys2Proof.Machine
end

section
/-!
PROOFS. The encoding (`30_encoding.md`): decode and encode are inverse (R66), a word spells a row exactly when it
carries the row's word under the row's mask (R62), and exactly the reserved words are refused (R64).
-/

namespace Sys2Proof

/-! ### The three fields of a word -/

/-- The word of three fields, `cls ‖ op ‖ arg` (R60). -/
def wordOf (f : Fields) : StimWord := (BitVec.ofBool f.cls ++ f.op ++ f.arg).cast (by decide : 1 + 3 + 8 = 12)

theorem getLsbD_wordOf (f : Fields) (i : Nat) :
    (wordOf f).getLsbD i =
      if i < 8 then f.arg.getLsbD i
      else if i - 8 < 3 then f.op.getLsbD (i - 8) else (decide (i - 8 - 3 = 0) && f.cls) := by
  simp only [wordOf, BitVec.getLsbD_cast, BitVec.getLsbD_append, BitVec.getLsbD_ofBool]

/-- A word is its three fields. -/
theorem wordOf_fieldsOf (w : StimWord) : wordOf (fieldsOf w) = w := by
  apply BitVec.eq_of_getLsbD_eq
  intro i hi
  rw [getLsbD_wordOf]
  by_cases arg : i < 8
  · simp [arg, fieldsOf, argOf]
  · by_cases op : i - 8 < 3
    · simp [arg, op, fieldsOf, opOf, show 8 + (i - 8) = i by omega]
    · simp [fieldsOf, clsOf, show i = 11 by omega]

/-- Three fields are those of their word. -/
theorem fieldsOf_wordOf (f : Fields) : fieldsOf (wordOf f) = f := by
  have cls : clsOf (wordOf f) = f.cls := getLsbD_wordOf f 11
  have op : opOf (wordOf f) = f.op := by
    ext i hi
    simp [opOf, getLsbD_wordOf, hi, BitVec.getLsbD_eq_getElem]
  have arg : argOf (wordOf f) = f.arg := by
    ext i hi
    simp [argOf, getLsbD_wordOf, hi, BitVec.getLsbD_eq_getElem]
  simp [fieldsOf, cls, op, arg]

/-- A one-bit operand in an argument whose bits 7:1 are zero (R63). -/
def bitArg (d : Level) : BitVec 8 := (BitVec.ofBool d).setWidth 8

/-- R63: an argument whose bits 7:1 are zero is its bit 0. -/
theorem bitArg_of_upper_zero (arg : BitVec 8) (h : arg.extractLsb' 1 7 = 0#7) : bitArg (arg.getLsbD 0) = arg := by
  revert arg
  decide

/-- The fields of an operation (R62). -/
def instrFields : Instr → Fields
  | .init => { cls := false, op := 0#3, arg := 0#8 }
  | .sync => { cls := false, op := 1#3, arg := 0#8 }
  | .rdst => { cls := false, op := 2#3, arg := 0#8 }
  | .wrkey k => { cls := false, op := 3#3, arg := k }
  | .rise d => { cls := true, op := 0#3, arg := bitArg d }
  | .fall => { cls := true, op := 1#3, arg := 0#8 }
  | .tmo c => { cls := true, op := 2#3, arg := bitArg c }
  | .reset => { cls := true, op := 3#3, arg := 0#8 }

/-- The encoder writes the operation's fields. -/
theorem encode_eq_wordOf (i : Instr) : encode i = wordOf (instrFields i) := by
  cases i with
  | init | sync | rdst | fall | reset => rfl
  | wrkey k => exact congrArg (· ++ k) (by decide : 0x3#4 = BitVec.ofBool false ++ 3#3)
  | rise d => cases d <;> rfl
  | tmo c => cases c <;> rfl

theorem fieldsOf_encode (i : Instr) : fieldsOf (encode i) = instrFields i := by
  rw [encode_eq_wordOf, fieldsOf_wordOf]

/-! ### Decode and encode are inverse (R66) -/

theorem decode_encode (i : Instr) : decode (encode i) = .ok i := by
  cases i with
  | init | sync | rdst | fall | reset => rfl
  | wrkey k =>
    obtain ⟨hcls, hop, harg⟩ := Fields.mk.inj (fieldsOf_encode (.wrkey k))
    simp [decode, hcls, hop, harg]
  | rise d => cases d <;> rfl
  | tmo c => cases c <;> rfl

/-- The inversion of the decoder: it reads an operation from that operation's fields only. -/
theorem fieldsOf_of_decode (w : StimWord) (i : Instr) (h : decode w = .ok i) : fieldsOf w = instrFields i := by
  unfold fieldsOf
  simp only [decode] at h
  split_ifs at h with hinit hsync hrdst hwrkey hrise hfall htmo hreset <;> cases h
  · obtain ⟨hc, ho, ha⟩ := hinit
    rw [hc, ho, ha, instrFields]
  · obtain ⟨hc, ho, ha⟩ := hsync
    rw [hc, ho, ha, instrFields]
  · obtain ⟨hc, ho, ha⟩ := hrdst
    rw [hc, ho, ha, instrFields]
  · obtain ⟨hc, ho⟩ := hwrkey
    rw [hc, ho, instrFields]
  · obtain ⟨hc, ho, ha⟩ := hrise
    rw [hc, ho, instrFields, bitArg_of_upper_zero _ ha]
  · obtain ⟨hc, ho, ha⟩ := hfall
    rw [hc, ho, ha, instrFields]
  · obtain ⟨hc, ho, ha⟩ := htmo
    rw [hc, ho, instrFields, bitArg_of_upper_zero _ ha]
  · obtain ⟨hc, ho, ha⟩ := hreset
    rw [hc, ho, ha, instrFields]

theorem encode_of_decode (w : StimWord) (i : Instr) (h : decode w = .ok i) : encode i = w := by
  rw [encode_eq_wordOf, ← fieldsOf_of_decode w i h, wordOf_fieldsOf]

theorem encode_injective : Function.Injective encode := by
  intro i j h
  have := decode_encode i
  rw [h, decode_encode j] at this
  exact (Except.ok.inj this).symm

/-! ### The count of the valid words -/

/-- Every operation with every operand. -/
def allInstrs : List Instr :=
  [.init, .sync, .rdst, .rise false, .rise true, .fall, .tmo false, .tmo true, .reset] ++
    (List.finRange (2 ^ 8)).map fun k => .wrkey (.ofFin k)

theorem mem_allInstrs (i : Instr) : i ∈ allInstrs := by
  cases i with
  | init | sync | rdst | fall | reset => simp [allInstrs]
  | rise d => cases d <;> simp [allInstrs]
  | tmo c => cases c <;> simp [allInstrs]
  | wrkey k => exact List.mem_append_right _ (List.mem_map.2 ⟨k.toFin, List.mem_finRange _, rfl⟩)

theorem nodup_allInstrs : allInstrs.Nodup := by
  have events : [Instr.init, .sync, .rdst, .rise false, .rise true, .fall, .tmo false, .tmo true, .reset].Nodup := by
    decide
  have keys : ((List.finRange (2 ^ 8)).map fun k => Instr.wrkey (.ofFin k)).Nodup :=
    (List.nodup_finRange _).map fun k l h => BitVec.ofFin.inj (Instr.wrkey.inj h)
  refine events.append keys ?_
  simp [List.disjoint_left]

theorem length_allInstrs : allInstrs.length = 265 := by
  simp [allInstrs]

/-- The words the decoder accepts are the encodings of the operations. -/
theorem decode_isOk_iff (w : StimWord) : (decode w).isOk = true ↔ ∃ i, encode i = w := by
  constructor
  · intro h
    cases hd : decode w with
    | ok i => exact ⟨i, encode_of_decode w i hd⟩
    | error r => simp [hd, Except.isOk, Except.toBool] at h
  · rintro ⟨i, rfl⟩
    rw [decode_encode]
    rfl

theorem validWords_perm :
    List.Perm ((List.range 4096).filter fun n => (decode (BitVec.ofNat 12 n)).isOk)
      (allInstrs.map fun i => (encode i).toNat) := by
  have numbers : (allInstrs.map fun i => (encode i).toNat).Nodup :=
    nodup_allInstrs.map fun i j h => encode_injective (BitVec.eq_of_toNat_eq h)
  refine (List.perm_ext_iff_of_nodup (List.nodup_range.filter _) numbers).2 fun n => ?_
  simp only [List.mem_filter, List.mem_range, decode_isOk_iff, List.mem_map, mem_allInstrs, true_and]
  constructor
  · rintro ⟨hn, i, hi⟩
    exact ⟨i, by rw [hi, BitVec.toNat_ofNat, Nat.mod_eq_of_lt hn]⟩
  · rintro ⟨i, rfl⟩
    exact ⟨(encode i).isLt, i, by simp⟩

/-- Settles O1: the encoder writes the fields of an operation and the decoder reads them back; the valid words are the
encodings of the 265 operations. -/
theorem decodeAndEncodeAreInverse : Obligations.DecodeAndEncodeAreInverse := by
  refine ⟨decode_encode, encode_of_decode, ?_⟩
  rw [validWords_perm.length_eq, List.length_map, length_allInstrs]

/-! ### The words that spell an operation are the well-formed ones (R63, R64) -/

/-- An operation's fields pass the checks of R64. -/
theorem wellFormed_instrFields (i : Instr) : (instrFields i).wellFormed = true := by
  cases i with
  | init | sync | rdst | fall | reset => rfl
  | wrkey k => simp [instrFields, Fields.wellFormed, Fields.opAssigned, Fields.argClear, Fields.mustBeZero]
  | rise d => cases d <;> rfl
  | tmo c => cases c <;> rfl

theorem arg_eq_zero (arg : BitVec 8) (h : arg &&& 0xFF#8 = 0#8) : arg = 0#8 := by
  rwa [show 0xFF#8 = BitVec.allOnes 8 from rfl, BitVec.and_allOnes] at h

theorem arg_eq_bitArg (arg : BitVec 8) (h : arg &&& 0xFE#8 = 0#8) : arg = bitArg (arg.getLsbD 0) := by
  revert arg
  decide

theorem op_cases (op : BitVec 3) (h : op.toNat < 4) : op = 0#3 ∨ op = 1#3 ∨ op = 2#3 ∨ op = 3#3 := by
  revert op
  decide

/-- Fields that pass the checks of R64 are an operation's. -/
theorem exists_instrFields (f : Fields) (h : f.wellFormed = true) : ∃ i, instrFields i = f := by
  obtain ⟨cls, op, arg⟩ := f
  simp only [Fields.wellFormed, Fields.opAssigned, Fields.argClear, Bool.and_eq_true, decide_eq_true_eq,
    beq_iff_eq] at h
  obtain ⟨hop, harg⟩ := h
  cases cls <;> obtain rfl | rfl | rfl | rfl := op_cases op hop <;> simp [Fields.mustBeZero] at harg
  · exact ⟨.init, by rw [arg_eq_zero arg harg]; rfl⟩
  · exact ⟨.sync, by rw [arg_eq_zero arg harg]; rfl⟩
  · exact ⟨.rdst, by rw [arg_eq_zero arg harg]; rfl⟩
  · exact ⟨.wrkey arg, rfl⟩
  · exact ⟨.rise (arg.getLsbD 0), by rw [instrFields, ← arg_eq_bitArg arg harg]⟩
  · exact ⟨.fall, by rw [arg_eq_zero arg harg]; rfl⟩
  · exact ⟨.tmo (arg.getLsbD 0), by rw [instrFields, ← arg_eq_bitArg arg harg]⟩
  · exact ⟨.reset, by rw [arg_eq_zero arg harg]; rfl⟩

/-- The decoder accepts exactly the well-formed words (R64). -/
theorem exists_decode_iff (w : StimWord) : (∃ i, decode w = .ok i) ↔ (fieldsOf w).wellFormed = true := by
  constructor
  · rintro ⟨i, h⟩
    rw [fieldsOf_of_decode w i h]
    exact wellFormed_instrFields i
  · intro h
    obtain ⟨i, hi⟩ := exists_instrFields (fieldsOf w) h
    have hw : encode i = w := by rw [encode_eq_wordOf, hi, wordOf_fieldsOf]
    exact ⟨i, hw ▸ decode_encode i⟩

/-! ### The rows of the table (R62) -/

theorem encode_and_rowMask (i : Instr) : encode i &&& rowMask i = rowWord i := by
  cases i with
  | init => exact Laws.TableRow.init
  | sync => exact Laws.TableRow.sync
  | rdst => exact Laws.TableRow.rdst
  | wrkey k => exact Laws.TableRow.wrkey k
  | rise d => exact Laws.TableRow.rise d
  | fall => exact Laws.TableRow.fall
  | tmo c => exact Laws.TableRow.tmo c
  | reset => exact Laws.TableRow.reset

/-- A row's word is that of its class and operation with a zero argument. -/
theorem rowWord_eq_wordOf (i : Instr) : rowWord i = wordOf ⟨(instrFields i).cls, (instrFields i).op, 0#8⟩ := by
  cases i <;> simp only [instrFields] <;> rfl

/-- A row's mask covers class, operation, and the must-be-zero bits of its argument (R63). -/
theorem argOf_rowMask (f : Fields) (i : Instr) (hcls : f.cls = (instrFields i).cls) (hop : f.op = (instrFields i).op) :
    argOf (rowMask i) = f.mustBeZero := by
  cases i <;> simp only [Fields.mustBeZero, hcls, hop, instrFields, rowMask] <;> rfl

theorem clsOf_and (v w : StimWord) : clsOf (v &&& w) = (clsOf v && clsOf w) := BitVec.getLsbD_and ..

theorem opOf_and (v w : StimWord) : opOf (v &&& w) = opOf v &&& opOf w := BitVec.extractLsb'_and ..

theorem argOf_and (v w : StimWord) : argOf (v &&& w) = argOf v &&& argOf w := BitVec.extractLsb'_and ..

/-- What a word that carries a row has in its fields. -/
theorem fields_of_carries (w : StimWord) (i : Instr) (h : w &&& rowMask i = rowWord i) :
    clsOf w = (instrFields i).cls ∧ opOf w = (instrFields i).op ∧ argOf w &&& argOf (rowMask i) = 0#8 := by
  have cls : (clsOf w && clsOf (rowMask i)) = clsOf (rowWord i) := by rw [← clsOf_and, h]
  have op : opOf w &&& opOf (rowMask i) = opOf (rowWord i) := by rw [← opOf_and, h]
  have arg : argOf w &&& argOf (rowMask i) = argOf (rowWord i) := by rw [← argOf_and, h]
  obtain ⟨rowCls, rowOp, rowArg⟩ := Fields.mk.inj
    ((congrArg fieldsOf (rowWord_eq_wordOf i)).trans (fieldsOf_wordOf _))
  have maskCls : clsOf (rowMask i) = true := by cases i <;> simp only [rowMask] <;> rfl
  have maskOp : opOf (rowMask i) = BitVec.allOnes 3 := by cases i <;> simp only [rowMask] <;> rfl
  rw [maskCls, Bool.and_true, rowCls] at cls
  rw [maskOp, BitVec.and_allOnes, rowOp] at op
  exact ⟨cls, op, arg.trans rowArg⟩

/-- A word that carries a row spells an operation of that row. -/
theorem decode_of_carries (w : StimWord) (i : Instr) (h : w &&& rowMask i = rowWord i) :
    ∃ j, decode w = .ok j ∧ rowWord j = rowWord i := by
  obtain ⟨hcls, hop, harg⟩ := fields_of_carries w i h
  have assigned : (fieldsOf w).opAssigned = true := by
    simp only [Fields.opAssigned, fieldsOf, hop]
    cases i <;> rfl
  have clear : (fieldsOf w).argClear = true := by
    rw [argOf_rowMask (fieldsOf w) i hcls hop] at harg
    exact beq_iff_eq.2 harg
  obtain ⟨j, hj⟩ := (exists_decode_iff w).2 (by rw [Fields.wellFormed, assigned, clear]; rfl)
  have hf := fieldsOf_of_decode w j hj
  refine ⟨j, hj, ?_⟩
  rw [rowWord_eq_wordOf, rowWord_eq_wordOf, ← hcls, ← hop, ← hf]
  rfl

/-- Settles O2: a word that carries a row is an operation's, and the operation is the word's. -/
theorem wordSpellsItsTableRow : Obligations.WordSpellsItsTableRow := by
  refine ⟨?_, decode_of_carries, ?_⟩
  · intro w i h
    rw [← encode_of_decode w i h, encode_and_rowMask]
  · intro w i j hi hj
    obtain ⟨k, hk, rowi⟩ := decode_of_carries w i hi
    obtain ⟨l, hl, rowj⟩ := decode_of_carries w j hj
    cases hk.symm.trans hl
    rw [← rowi, rowj]

/-! ### Reserved words (R64) -/

/-- The decoder rejects exactly the words that fail a check of R64. -/
theorem exists_decode_error_iff (w : StimWord) :
    (∃ r, decode w = .error r) ↔ 4 ≤ (opOf w).toNat ∨ argOf w &&& (fieldsOf w).mustBeZero ≠ 0#8 := by
  have rejected : (∃ r, decode w = .error r) ↔ ¬ ∃ i, decode w = .ok i := by
    cases decode w <;> simp
  have assigned : (fieldsOf w).opAssigned = true ↔ (opOf w).toNat < 4 := decide_eq_true_iff
  have clear : (fieldsOf w).argClear = true ↔ argOf w &&& (fieldsOf w).mustBeZero = 0#8 := beq_iff_eq
  rw [rejected, exists_decode_iff, Fields.wellFormed, Bool.and_eq_true, assigned, clear, not_and_or, not_lt]

namespace Machine

/-- While the block is busy, or nobody waits, the trace's next word is what the step decodes (R68). -/
theorem step_eq_runDecoded (s : State) (w : StimWord) (ws : List Stimulus) (h : s.mode ≠ .idle ∨ s.presented = [])
    (hs : s.stim = .word w :: ws) : step s = runDecoded (decode w) { s with stim := ws } := by
  simp [step, fetch_eq_fetchTrace s h, fetchTrace, hs]

/-- In Idle the one waiting word is what the step decodes (R120). -/
theorem step_eq_runDecoded_onPort (s : State) (w : StimWord) (idle : s.mode = .idle) (h : s.presented = [w]) :
    step s = runDecoded (decodeOnPort w) { s with presented := [] } := by
  simp [step, fetch_single s w idle h]

/-- Settles O3: the checks of R64 are the decoder's, and a step refuses what its decoder rejects. -/
theorem reservedWordsAreRefused : Obligations.ReservedWordsAreRefused := by
  refine ⟨exists_decode_error_iff, fun w h => if_pos h, fun w h => if_neg (by simp [h]), ?_, ?_⟩
  · intro s w ws r h hs hd
    rw [step_eq_runDecoded s w ws h hs, hd, runDecoded]
  · intro s w r idle h hd
    rw [step_eq_runDecoded_onPort s w idle h, hd, runDecoded]

end Machine

/-! ### Words written out -/

/-- Settles O4: each word is the encoding of its operation. -/
theorem writtenOutWordsDecode : Obligations.WrittenOutWordsDecode :=
  ⟨decode_encode .init, decode_encode .sync, decode_encode .rdst, decode_encode (.wrkey 0x7D#8),
    decode_encode (.rise true), decode_encode .fall, decode_encode (.tmo true), decode_encode .reset⟩

end Sys2Proof
end

section
/-!
PROOFS. The invariants of the block (`10_state.md` R24, R29): every step keeps them, and reset meets them.
-/

namespace Sys2Proof.Machine

open Safety

/-! ### Counter and driven bit -/

/-- The counter steps by one below its width (R109). -/
theorem toNat_nextCount (ec : EdgeCount) (h : ec.toNat < 63) : (nextCount ec).toNat = ec.toNat + 1 := by
  rw [nextCount, BitVec.toNat_add_of_lt (by simpa using (by omega : ec.toNat + 1 < 64))]
  rfl

/-- WriteBit drives `WB[31 - EC]` (R103). -/
theorem driveBit_eq (wb : WriteWord) (ec : EdgeCount) : driveBit wb ec = wb.getLsbD (31 - ec.toNat) := by
  simp [driveBit]

/-! ### The invariant of single states -/

/-- The invariant looks at the nine registers only. -/
theorem blockInv_of_sameBlock {s t : State} (inv : BlockInv s) (h : SameBlock s t) : BlockInv t := by
  obtain ⟨sr, wb, ec, mode, lock, pend, sph, doe, dout⟩ := h
  constructor <;> simp only [sr, wb, ec, mode, lock, pend, sph, doe, dout]
  exacts [inv.readingBound, inv.writingBound, inv.lockGates, inv.pendSyncing, inv.settlingSyncing, inv.syncingUnlocked,
    inv.pendCountZero, inv.pendReadClear, inv.readingReleased, inv.writingDrives]

/-- In Idle the invariant says that nothing is pending and no timer runs (R29 (f), (g)). -/
theorem blockInv_idle_iff (s : State) (idle : s.mode = .idle) : BlockInv s ↔ s.pend = none ∧ s.sph = .armed := by
  constructor
  · intro inv
    have pend : s.pend = none := by
      by_contra h
      simpa [idle] using inv.pendSyncing h
    have sph : s.sph ≠ .settling := fun h => by simpa [idle] using inv.settlingSyncing h
    cases hs : s.sph with
    | armed => exact ⟨pend, rfl⟩
    | settling => exact absurd hs sph
  · rintro ⟨pend, sph⟩
    constructor <;> simp [idle, pend, sph]

/-- In Idle the invariant does not depend on the other registers. -/
theorem blockInv_of_idle {s t : State} (inv : BlockInv s) (idle : s.mode = .idle) (mode : t.mode = s.mode)
    (pend : t.pend = s.pend) (sph : t.sph = s.sph) : BlockInv t := by
  rw [blockInv_idle_iff t (mode.trans idle), pend, sph]
  exact (blockInv_idle_iff s idle).1 inv

/-- While Syncing it says that the lock is off, and EC and SR are cleared for what is pending (R29 (h) to (j)). -/
theorem blockInv_syncing (s : State) (syncing : s.mode = .syncing) (lock : s.lock = false)
    (ec : s.pend ≠ none → s.ec = 0#6) (sr : s.pend = some .read → s.sr = 0#16) : BlockInv s := by
  constructor
  case pendCountZero => exact fun _ => ec
  case pendReadClear => exact fun _ => sr
  all_goals simp [syncing, lock]

/-- At the start of a transaction it says that the lock is held and the synchronisation over (R24 (c)). -/
theorem blockInv_start (p : Dir) (s : State) (mode : s.mode = dirMode p) (lock : s.lock = true) (pend : s.pend = none)
    (sph : s.sph = .armed) (ec : s.ec = 0#6) : BlockInv s := by
  cases p <;> constructor <;> simp [mode, dirMode, lock, pend, sph, ec]

/-! ### Every operation keeps the invariant -/

theorem blockInv_startSync (p : Option Dir) (s : State) (ec : p ≠ none → s.ec = 0#6)
    (sr : p = some .read → s.sr = 0#16) : BlockInv (startSync p s) :=
  blockInv_syncing _ rfl rfl ec sr

theorem blockInv_startTxn (p : Dir) (s : State) (inv : BlockInv s) (idle : s.mode = .idle) (ec : s.ec = 0#6)
    (sr : p = .read → s.sr = 0#16) : BlockInv (startTxn p s) := by
  obtain ⟨pend, sph⟩ := (blockInv_idle_iff s idle).1 inv
  rcases startTxn_cases p s with ⟨-, ht⟩ | ⟨hn, ht⟩ <;> rw [ht]
  · exact blockInv_startSync _ s (fun _ => ec) (fun h => sr (Option.some.inj h))
  · exact blockInv_start p _ rfl ((needSync_eq_false s).1 hn).1 pend sph ec

theorem blockInv_syncEdge (pol : Edge) (s : State) (inv : BlockInv s) (syncing : s.mode = .syncing) :
    BlockInv (syncEdge pol s) :=
  blockInv_syncing _ (by simpa) (by simpa using inv.syncingUnlocked syncing)
    (by simpa using inv.pendCountZero syncing) (by simpa using inv.pendReadClear syncing)

theorem blockInv_settleExpire (c : Level) (s : State) (inv : BlockInv s) (syncing : s.mode = .syncing) :
    BlockInv (settleExpire c s) := by
  rcases settleExpire_cases c s with ⟨-, ht⟩ | ⟨-, ht⟩ <;> rw [ht]
  · cases hp : s.pend with
    | none => exact (blockInv_idle_iff _ rfl).2 ⟨rfl, rfl⟩
    | some p => exact blockInv_start p _ rfl rfl rfl rfl (inv.pendCountZero syncing (by simp [hp]))
  · exact blockInv_syncing _ syncing (inv.syncingUnlocked syncing) (inv.pendCountZero syncing)
      (inv.pendReadClear syncing)

/-- A transaction has nothing pending and no timer running (R29 (f), (g)). -/
theorem blockInv_not_syncing {s : State} (inv : BlockInv s) (h : s.mode ≠ .syncing) :
    s.pend = none ∧ s.sph ≠ .settling :=
  ⟨not_not.1 (mt inv.pendSyncing h), mt inv.settlingSyncing h⟩

theorem blockInv_readBit (d : Level) (s : State) (inv : BlockInv s) (reading : s.mode = .reading) :
    BlockInv (readBit d s) := by
  have bound := inv.readingBound reading
  have lock := inv.lockGates (.inl reading)
  obtain ⟨pend, sph⟩ := blockInv_not_syncing inv (by simp [reading])
  have count := toNat_nextCount s.ec (by omega)
  rcases readBit_mode_cases d s with ⟨-, idle⟩ | ⟨notLast, mode⟩
  · constructor <;> simp [-readBit_mode, idle, pend, sph]
  · have : s.ec.toNat ≠ 15 := fun h => notLast (BitVec.eq_of_toNat_eq h)
    constructor
    case readingBound =>
      intro _
      rw [readBit_ec, count]
      omega
    all_goals simp [-readBit_mode, mode, reading, pend, sph, lock]

theorem blockInv_writeBit (s : State) (inv : BlockInv s) (writing : s.mode = .writing) : BlockInv (writeBit s) := by
  have bound := inv.writingBound writing
  have lock := inv.lockGates (.inr writing)
  obtain ⟨pend, sph⟩ := blockInv_not_syncing inv (by simp [writing])
  have count := toNat_nextCount s.ec (by omega)
  rcases writeBit_mode_cases s with ⟨-, idle⟩ | ⟨notLast, mode⟩
  · constructor <;> simp [-writeBit_mode, idle, pend, sph]
  · have : s.ec.toNat ≠ 31 := fun h => notLast (BitVec.eq_of_toNat_eq h)
    constructor
    case writingBound =>
      intro _
      rw [writeBit_ec, count]
      omega
    case writingDrives =>
      intro _ _
      rw [writeBit_doe, writeBit_dout, writeBit_wb, writeBit_ec, driveBit_eq, count, Nat.add_sub_add_right 31 1]
      exact ⟨rfl, rfl⟩
    all_goals simp [-writeBit_mode, mode, writing, pend, sph, lock]

theorem blockInv_idleEdge (s : State) (inv : BlockInv s) (idle : s.mode = .idle) : BlockInv (idleEdge s) :=
  blockInv_of_idle inv idle (idleEdge_mode s) (idleEdge_pend s) (idleEdge_sph s)

/-- Every operation keeps the invariant (R24, R29). -/
theorem exec_keeps_blockInv (i : Instr) (s t : State) (inv : BlockInv s) (h : exec i s = .next t) : BlockInv t := by
  rcases exec_eq_next i s t h with ⟨-, -, rfl⟩ | ⟨-, -, rfl⟩ | ⟨-, -, rfl⟩ | ⟨-, idle, rfl⟩ | ⟨k, -, idle, rfl⟩ |
    ⟨d, -, hrise⟩ | ⟨-, hfall⟩ | ⟨c, -, syncing, -, rfl⟩ | ⟨-, rfl⟩
  · exact blockInv_of_sameBlock inv (by simp [SameBlock])
  · exact blockInv_startSync none _ (absurd rfl) nofun
  · exact blockInv_startSync none _ (absurd rfl) nofun
  · have cleared : BlockInv { s with ec := 0#6, sr := 0#16 } :=
      blockInv_of_idle inv idle rfl rfl rfl
    exact blockInv_startTxn .read _ cleared idle rfl fun _ => rfl
  · have loaded : BlockInv { s with wb := rep4 (payload s.cfg.keyInvert k), ec := 0#6 } :=
      blockInv_of_idle inv idle rfl rfl rfl
    exact blockInv_startTxn .write _ loaded idle rfl nofun
  · rcases hrise with ⟨hm, rfl⟩ | ⟨hm, rfl⟩ | ⟨-, rfl⟩ | ⟨hm, rfl⟩
    · exact blockInv_syncEdge .rising s inv hm
    · exact blockInv_readBit d s inv hm
    · exact inv
    · exact blockInv_idleEdge s inv hm
  · rcases hfall with ⟨hm, rfl⟩ | ⟨hm, rfl⟩ | ⟨-, rfl⟩ | ⟨hm, rfl⟩
    · exact blockInv_syncEdge .falling s inv hm
    · exact blockInv_writeBit s inv hm
    · exact inv
    · exact blockInv_idleEdge s inv hm
  · exact blockInv_settleExpire c s inv syncing
  · exact (blockInv_idle_iff _ rfl).2 ⟨rfl, rfl⟩

theorem step_keeps_blockInv (s t : State) (inv : BlockInv s) (h : step s = .next t) : BlockInv t := by
  rcases step_block s t h with ⟨same, -⟩ | ⟨i, u, hx, same, -⟩
  · exact blockInv_of_sameBlock inv same
  · exact exec_keeps_blockInv i u t (blockInv_of_sameBlock inv same) hx

/-- The code 1 of PEND is unused (R29 (k)). -/
theorem pendCode_ne_one (p : Option Dir) : pendCode p ≠ 1#2 := by
  match p with
  | none | some .read | some .write => decide

/-- Settles O37: each operation keeps the invariant, and a step is an operation or leaves the block as it is. -/
theorem everyStepKeepsTheInvariant : Obligations.EveryStepKeepsTheInvariant :=
  fun s t inv h => ⟨step_keeps_blockInv s t inv h, pendCode_ne_one t.pend⟩

/-- Settles O36: reset is Idle with nothing pending and no timer running. -/
theorem invariantHoldsAtReset : Obligations.InvariantHoldsAtReset :=
  (blockInv_idle_iff _ rfl).2 ⟨rfl, rfl⟩

end Sys2Proof.Machine
end

section
/-!
PROOFS. What an operation can do to each register (`10_state.md` R11 to R17, R24 to R26), and the outcomes of a step
(`60_exceptions.md` R161, `40_synchronizer.md` R87).
-/

namespace Sys2Proof.Machine

open Safety

/-! ### `TMO` outside its timer -/

/-- `TMO` is enabled only while the timer runs (R82, R161). -/
theorem exec_tmo_not_settling (c : Level) (s : State) (h : ¬(s.mode = .syncing ∧ s.sph = .settling)) :
    exec (.tmo c) s = .refused .timerNotRunning :=
  if_neg (mt (settling_iff s).1 h)

/-- A command in a busy block is held (R120). -/
theorem exec_command_busy (i : Instr) (s : State) (hi : i.isCommand = true) (busy : s.mode ≠ .idle) :
    exec i s = .next (hold i s) := by
  cases i with
  | init => exact accept_busy .init (fun t => startSync none t.release) s busy
  | sync => exact accept_busy .sync (startSync none) s busy
  | rdst => exact accept_busy .rdst (fun t => startTxn .read { t with ec := 0#6, sr := 0#16 }) s busy
  | wrkey k =>
    exact accept_busy (.wrkey k)
      (fun t => startTxn .write { t with wb := rep4 (payload t.cfg.keyInvert k), ec := 0#6 }) s busy
  | rise _ | fall | tmo _ | reset => cases hi

/-! ### EC -/

/-- EC is cleared by an accepted `RDST` or `WRKEY`, counted by a bit of a transaction, else kept (R14). -/
theorem exec_ec_cases (i : Instr) (s t : State) (hi : i ≠ .reset) (h : exec i s = .next t) :
    t.ec = s.ec ∨ t.ec = 0#6 ∨
      (s.mode = .reading ∧ t.ec = nextCount s.ec) ∨ (s.mode = .writing ∧ t.ec = nextCount s.ec) := by
  rcases exec_eq_next i s t h with ⟨-, -, rfl⟩ | ⟨-, -, rfl⟩ | ⟨-, -, rfl⟩ | ⟨-, -, rfl⟩ | ⟨k, -, -, rfl⟩ |
    ⟨d, -, hrise⟩ | ⟨-, hfall⟩ | ⟨c, -, -, -, rfl⟩ | ⟨rfl, -⟩
  · exact .inl rfl
  · exact .inl rfl
  · exact .inl rfl
  · exact .inr (.inl (by simp))
  · exact .inr (.inl (by simp))
  · rcases hrise with ⟨-, rfl⟩ | ⟨hm, rfl⟩ | ⟨-, rfl⟩ | ⟨-, rfl⟩ <;> simp [*]
  · rcases hfall with ⟨-, rfl⟩ | ⟨hm, rfl⟩ | ⟨-, rfl⟩ | ⟨-, rfl⟩ <;> simp [*]
  · exact .inl (by simp)
  · exact absurd rfl hi

/-- An `RDST` or `WRKEY` accepted in Idle clears EC (R124, R125). -/
theorem exec_transaction_ec (i : Instr) (s t : State) (idle : s.mode = .idle) (hi : i = .rdst ∨ ∃ k, i = .wrkey k)
    (h : exec i s = .next t) : t.ec = 0#6 := by
  rcases hi with rfl | ⟨k, rfl⟩
  · rw [exec_rdst_idle s idle] at h
    cases h
    simp
  · rw [exec_wrkey_idle k s idle] at h
    cases h
    simp

/-- Settles O38: a transaction begins with EC = 0, and the invariant bounds the count that a bit adds to. -/
theorem edgeCountStaysWithinItsBound : Obligations.EdgeCountStaysWithinItsBound := by
  constructor
  · intro s t i idle hi h
    simp [exec_transaction_ec i s t idle hi h]
  · intro s t i inv bound hi h
    rcases exec_ec_cases i s t hi h with ht | ht | ⟨hm, ht⟩ | ⟨hm, ht⟩ <;> rw [ht]
    · exact bound
    · decide
    · have := inv.readingBound hm
      rw [toNat_nextCount s.ec (by omega)]
      omega
    · have := inv.writingBound hm
      rw [toNat_nextCount s.ec (by omega)]
      omega

/-! ### WB -/

/-- WB is written by an accepted `WRKEY` only (R13). -/
theorem exec_wb_cases (i : Instr) (s t : State) (hi : i ≠ .reset) (h : exec i s = .next t) :
    t.wb = s.wb ∨ (s.mode = .idle ∧ ∃ k, i = .wrkey k) := by
  rcases exec_eq_next i s t h with ⟨-, -, rfl⟩ | ⟨-, -, rfl⟩ | ⟨-, -, rfl⟩ | ⟨-, -, rfl⟩ | ⟨k, rfl, idle, rfl⟩ |
    ⟨d, -, hrise⟩ | ⟨-, hfall⟩ | ⟨c, -, -, -, rfl⟩ | ⟨rfl, -⟩
  · exact .inl rfl
  · exact .inl rfl
  · exact .inl rfl
  · exact .inl (by simp)
  · exact .inr ⟨idle, k, rfl⟩
  · rcases hrise with ⟨-, rfl⟩ | ⟨-, rfl⟩ | ⟨-, rfl⟩ | ⟨-, rfl⟩ <;> simp
  · rcases hfall with ⟨-, rfl⟩ | ⟨-, rfl⟩ | ⟨-, rfl⟩ | ⟨-, rfl⟩ <;> simp
  · exact .inl (by simp)
  · exact absurd rfl hi

/-- Settles O39: WB changes in Idle only, where no write is in progress or pending. -/
theorem writeBufferIsImmutable : Obligations.WriteBufferIsImmutable := by
  intro i s t h hi
  rcases exec_wb_cases i s t hi h with kept | accepted
  · exact ⟨fun changed => absurd kept changed, fun _ => kept⟩
  · refine ⟨fun _ => accepted, fun transaction => ?_⟩
    simp [accepted.1] at transaction

/-! ### SR and PEND -/

/-- SR is cleared by an accepted `RDST` and takes a sample in by a `RISE` while Reading (R11). -/
theorem exec_sr_cases (i : Instr) (s t : State) (hi : i ≠ .reset) (h : exec i s = .next t) :
    t.sr = s.sr ∨ (i = .rdst ∧ s.mode = .idle ∧ t.sr = 0#16) ∨
      (∃ d, i = .rise d ∧ s.mode = .reading ∧ t.sr = shiftIn s.sr d) := by
  rcases exec_eq_next i s t h with ⟨-, -, rfl⟩ | ⟨-, -, rfl⟩ | ⟨-, -, rfl⟩ | ⟨rfl, idle, rfl⟩ | ⟨k, -, -, rfl⟩ |
    ⟨d, rfl, hrise⟩ | ⟨-, hfall⟩ | ⟨c, -, -, -, rfl⟩ | ⟨rfl, -⟩
  · exact .inl rfl
  · exact .inl rfl
  · exact .inl rfl
  · exact .inr (.inl ⟨rfl, idle, by simp⟩)
  · exact .inl (by simp)
  · rcases hrise with ⟨-, rfl⟩ | ⟨hm, rfl⟩ | ⟨-, rfl⟩ | ⟨-, rfl⟩
    · exact .inl (by simp)
    · exact .inr (.inr ⟨d, rfl, hm, by simp⟩)
    · exact .inl rfl
    · exact .inl (by simp)
  · rcases hfall with ⟨-, rfl⟩ | ⟨-, rfl⟩ | ⟨-, rfl⟩ | ⟨-, rfl⟩ <;> simp
  · exact .inl (by simp)
  · exact absurd rfl hi

/-- Settles O40: the two writers of SR. -/
theorem statusIsWrittenOnlyByReads : Obligations.StatusIsWrittenOnlyByReads := by
  intro i s t h hi changed
  rcases exec_sr_cases i s t hi h with kept | cleared | sampled
  · exact absurd kept changed
  · exact .inl cleared
  · exact .inr sampled

theorem startTxn_pend_cases (p : Dir) (s : State) : (startTxn p s).pend = s.pend ∨ (startTxn p s).pend = some p := by
  rcases startTxn_cases p s with ⟨-, ht⟩ | ⟨-, ht⟩ <;> simp [ht]

/-- A read becomes pending by an accepted `RDST` only (R17, R123). -/
theorem exec_pend_read (i : Instr) (s t : State) (h : exec i s = .next t) (hp : t.pend = some .read) :
    s.pend = some .read ∨ (i = .rdst ∧ s.mode = .idle) := by
  rcases exec_eq_next i s t h with ⟨-, -, rfl⟩ | ⟨-, -, rfl⟩ | ⟨-, -, rfl⟩ | ⟨rfl, idle, rfl⟩ | ⟨k, -, -, rfl⟩ |
    ⟨d, -, hrise⟩ | ⟨-, hfall⟩ | ⟨c, -, -, -, rfl⟩ | ⟨-, rfl⟩
  · exact .inl hp
  · cases hp
  · cases hp
  · exact .inr ⟨rfl, idle⟩
  · rcases startTxn_pend_cases .write { s with wb := rep4 (payload s.cfg.keyInvert k), ec := 0#6 } with ht | ht <;>
      rw [ht] at hp
    · exact .inl hp
    · cases hp
  · rcases hrise with ⟨-, rfl⟩ | ⟨-, rfl⟩ | ⟨-, rfl⟩ | ⟨-, rfl⟩ <;> exact .inl (by simpa using hp)
  · rcases hfall with ⟨-, rfl⟩ | ⟨-, rfl⟩ | ⟨-, rfl⟩ | ⟨-, rfl⟩ <;> exact .inl (by simpa using hp)
  · rcases settleExpire_cases c s with ⟨-, ht⟩ | ⟨-, ht⟩ <;> rw [ht] at hp
    · cases hp
    · exact .inl hp
  · cases hp

/-- A read begins by an accepted `RDST`, or by the lock when a read is pending (R110). -/
theorem exec_mode_reading (i : Instr) (s t : State) (h : exec i s = .next t) (hm : t.mode = .reading) :
    s.mode = .reading ∨ (i = .rdst ∧ s.mode = .idle) ∨ s.pend = some .read := by
  by_cases same : t.mode = s.mode
  · exact .inl (same ▸ hm)
  · have arrow : ModeArrow s i .reading := hm ▸ modeArrow_of_mode_ne i s t h same
    cases arrow with
    | rdstReading idle _ => exact .inr (.inl ⟨rfl, idle⟩)
    | tmoReading c _ _ pend => exact .inr (.inr pend)

/-- What ends the interval in which SR is a result (R25, R171). -/
theorem resultHeldAfter_eq_false_iff (i : Instr) (s : State) (hm : s.mode ≠ .reading) :
    resultHeldAfter true i s = false ↔ i = .reset ∨ (i = .rdst ∧ s.mode = .idle) := by
  cases i <;> simp [resultHeldAfter, hm]

/-- Settles O41: the sixteenth sample makes a result, and SR's two writers do not come before the interval's end. -/
theorem readResultLastsUntilTheNextRead : Obligations.ReadResultLastsUntilTheNextRead := by
  refine ⟨?_, ?_, resultHeldAfter_eq_false_iff⟩
  · intro s t d inv reading last h
    obtain ⟨pend, -⟩ := blockInv_not_syncing inv (by simp [reading])
    rw [exec_rise_reading d s reading] at h
    cases h
    exact ⟨by simp [resultHeldAfter, reading, last, nextCount], by simp [last, nextCount], by simpa using pend⟩
  · intro i s t notReading notPending h held
    have goesOn : ¬(i = .reset ∨ (i = .rdst ∧ s.mode = .idle)) := by
      rw [← resultHeldAfter_eq_false_iff i s notReading, held]
      simp
    obtain ⟨hreset, hrdst⟩ := not_or.1 goesOn
    refine ⟨?_, ?_, ?_⟩
    · rcases exec_sr_cases i s t hreset h with kept | ⟨hi, idle, -⟩ | ⟨d, -, reading, -⟩
      · exact kept
      · exact absurd ⟨hi, idle⟩ hrdst
      · exact absurd reading notReading
    · intro hm
      rcases exec_mode_reading i s t h hm with reading | accepted | pending
      · exact notReading reading
      · exact hrdst accepted
      · exact notPending pending
    · intro hp
      rcases exec_pend_read i s t h hp with pending | accepted
      · exact notPending pending
      · exact hrdst accepted

/-! ### Commands while busy, edges while Idle (R26) -/

/-- An edge in Idle touches the line only (R104). -/
theorem idleEdge_eq_line (s : State) : idleEdge s = { s with doe := (idleEdge s).doe, dout := (idleEdge s).dout } := by
  rcases idleEdge_cases s with ⟨-, ht⟩ | ⟨-, ht⟩ | ⟨-, ht⟩ <;> rw [ht] <;> rfl

theorem exec_rise_idle (d : Level) (s : State) (idle : s.mode = .idle) : exec (.rise d) s = .next (idleEdge s) := by
  simp only [exec, execRise, idle]

theorem exec_fall_idle (s : State) (idle : s.mode = .idle) : exec .fall s = .next (idleEdge s) := by
  simp only [exec, execFall, idle]

/-- Settles O42: a busy block holds commands, and an edge in Idle touches the line only. -/
theorem contextsOwnDisjointIntervals : Obligations.ContextsOwnDisjointIntervals := by
  refine ⟨?_, ?_, ?_⟩
  · intro i s t hi busy h
    rw [exec_command_busy i s hi busy] at h
    cases h
    simp [SameBlock]
  · rintro i s t (rfl | ⟨d, rfl⟩) idle h
    · rw [exec_fall_idle s idle] at h
      cases h
      exact idleEdge_eq_line s
    · rw [exec_rise_idle d s idle] at h
      cases h
      exact idleEdge_eq_line s
  · intro c s idle
    exact exec_tmo_not_settling c s (by simp [idle])

/-! ### Outcomes (R161) -/

/-- Every operation but `TMO` is enabled in every state. -/
theorem exec_exists_next (i : Instr) (s : State) (hi : ∀ c, i ≠ .tmo c) : ∃ t, exec i s = .next t := by
  cases i with
  | tmo c => exact absurd rfl (hi c)
  | init | sync | rdst | wrkey _ | rise _ | fall | reset => exact ⟨_, rfl⟩

/-- Settles O43: `TMO` alone has a condition, and there is no fault to raise. -/
theorem outcomesAreAsStated : Obligations.OutcomesAreAsStated := by
  refine ⟨exec_exists_next, ?_, ?_, ?_, fun s f => nomatch f⟩
  · intro c s
    constructor
    · rintro ⟨t, h⟩
      obtain ⟨syncing, settling, -⟩ := execTmo_eq_next c s t h
      exact ⟨syncing, settling⟩
    · intro h
      exact ⟨_, exec_tmo_settling c s ((settling_iff s).2 h)⟩
  · intro c s
    constructor
    · intro refused h
      rw [exec_tmo_settling c s ((settling_iff s).2 h)] at refused
      cases refused
    · exact exec_tmo_not_settling c s
  · intro w r s h
    rw [h, runDecoded]

/-! ### The parameters and the trace -/

/-- No operation changes the parameters or touches the trace (log 5, log 1). -/
theorem exec_cfg_stim (i : Instr) (s t : State) (h : exec i s = .next t) : t.cfg = s.cfg ∧ t.stim = s.stim := by
  rcases exec_eq_next i s t h with ⟨-, -, rfl⟩ | ⟨-, -, rfl⟩ | ⟨-, -, rfl⟩ | ⟨-, -, rfl⟩ | ⟨k, -, -, rfl⟩ |
    ⟨d, -, hrise⟩ | ⟨-, hfall⟩ | ⟨c, -, -, -, rfl⟩ | ⟨-, rfl⟩
  · simp
  · simp
  · simp
  · simp
  · simp
  · rcases hrise with ⟨-, rfl⟩ | ⟨-, rfl⟩ | ⟨-, rfl⟩ | ⟨-, rfl⟩ <;> simp
  · rcases hfall with ⟨-, rfl⟩ | ⟨-, rfl⟩ | ⟨-, rfl⟩ | ⟨-, rfl⟩ <;> simp
  · simp
  · simp

theorem step_cfg (s t : State) (h : step s = .next t) : t.cfg = s.cfg := by
  rcases step_block s t h with ⟨-, hc⟩ | ⟨i, u, hx, -, hc⟩
  · exact hc
  · obtain ⟨cfg, -⟩ := exec_cfg_stim i u t hx
    exact cfg.trans hc

/-- Settles O44: the operations keep parameters and trace, and a step hands them the same parameters. -/
theorem parametersNeverChange : Obligations.ParametersNeverChange :=
  ⟨step_cfg, exec_cfg_stim⟩

/-! ### The environment (R87) -/

/-- A move of the environment is enabled where it is made (R87). -/
theorem exec_of_environmentMoveOk (clk : Level) (s : State) (i : Instr) (h : environmentMoveOk clk s i = true) :
    ∃ t, exec i s = .next t := by
  cases i with
  | tmo c =>
    obtain ⟨settling, -⟩ := Bool.and_eq_true_iff.1 h
    exact ⟨_, exec_tmo_settling c s settling⟩
  | init | sync | rdst | wrkey _ | rise _ | fall | reset => exact ⟨_, rfl⟩

/-- A step that meets a move of the environment, a withdrawal or nothing answers a next state. -/
theorem step_of_stimulusOk (clk : Level) (s : State) (h : stimulusOk clk s = true) : ∃ t, step s = .next t := by
  unfold stimulusOk at h
  unfold step
  cases hf : fetch s with
  | nothing => exact ⟨s, rfl⟩
  | withdrawn k t => exact ⟨t, rfl⟩
  | onPort k w t =>
    rw [hf] at h
    cases hd : decodeOnPort w with
    | ok i =>
      obtain ⟨u, hu⟩ := exec_of_environmentMoveOk clk t i (by simpa [hd] using h)
      exact ⟨u, by simpa [hd, runDecoded] using hu⟩
    | error r => simp [hd] at h
  | inTrace w t =>
    rw [hf] at h
    cases hd : decode w with
    | ok i =>
      obtain ⟨u, hu⟩ := exec_of_environmentMoveOk clk t i (by simpa [hd] using h)
      exact ⟨u, by simpa [hd, runDecoded] using hu⟩
    | error r => simp [hd] at h

/-- A run whose every stimulus is such a move is never stopped: induction on the number of steps. -/
theorem run_of_environmentOk (n : Nat) (clk : Level) (s : State) (h : environmentOk n clk s = true) :
    ∃ t, run n s = .next t := by
  induction n generalizing clk s with
  | zero => exact ⟨s, rfl⟩
  | succ n ih =>
    obtain ⟨ok, rest⟩ := Bool.and_eq_true_iff.1 h
    obtain ⟨u, hu⟩ := step_of_stimulusOk clk s ok
    rw [hu] at rest
    obtain ⟨t, ht⟩ := ih _ u rest
    exact ⟨t, by simp [run, hu, ht]⟩

/-- Settles O46: every move of the environment is enabled, and so is every step of a run of such moves. -/
theorem environmentIsNeverRefused : Obligations.EnvironmentIsNeverRefused :=
  ⟨exec_of_environmentMoveOk, run_of_environmentOk⟩

/-! ### Coincident stimuli (R156) -/

/-- The elements of rank below `k`, rank by rank. -/
theorem flatMap_filter_rank_perm (is : List Instr) (k : Nat) :
    List.Perm ((List.range k).flatMap fun r => is.filter fun i => coincidenceRank i == r)
      (is.filter fun i => coincidenceRank i < k) := by
  induction k with
  | zero => simp
  | succ k ih =>
    have below : (is.filter fun i => coincidenceRank i < k) =
        (is.filter fun i => coincidenceRank i < k + 1).filter fun i => coincidenceRank i < k := by
      rw [List.filter_filter]
      exact List.filter_congr fun i _ => by grind
    have here : (is.filter fun i => coincidenceRank i == k) =
        (is.filter fun i => coincidenceRank i < k + 1).filter fun i => !decide (coincidenceRank i < k) := by
      rw [List.filter_filter]
      exact List.filter_congr fun i _ => by grind
    rw [List.range_succ, List.flatMap_append, List.flatMap_singleton, here]
    rw [below] at ih
    exact (ih.append_right _).trans (List.filter_append_perm _ _)

theorem coincidenceRank_lt_four (i : Instr) : coincidenceRank i < 4 := by
  cases i <;> simp [coincidenceRank]

theorem orderCoincident_perm (is : List Instr) : List.Perm (orderCoincident is) is := by
  have all : (is.filter fun i => coincidenceRank i < 4) = is :=
    List.filter_eq_self.2 fun i _ => decide_eq_true (coincidenceRank_lt_four i)
  have perm := flatMap_filter_rank_perm is 4
  rwa [all] at perm

/-- Coincident stimuli are taken in the order of their ranks. -/
theorem orderCoincident_pairwise (is : List Instr) :
    (orderCoincident is).Pairwise fun i j => coincidenceRank i ≤ coincidenceRank j := by
  rw [orderCoincident, List.pairwise_flatMap]
  constructor
  · intro r _
    refine List.pairwise_iff_getElem.2 fun m n hm hn _ => ?_
    have rank_m := (List.mem_filter.1 (List.getElem_mem hm)).2
    have rank_n := (List.mem_filter.1 (List.getElem_mem hn)).2
    exact (beq_iff_eq.1 rank_m).trans_le (beq_iff_eq.1 rank_n).ge
  · refine List.pairwise_lt_range.imp ?_
    intro q r hlt i hi j hj
    simp only [List.mem_filter, beq_iff_eq] at hi hj
    omega

/-- What the order of the ranks says of two stimuli. -/
theorem order_of_rank_le (i j : Instr) (h : coincidenceRank i ≤ coincidenceRank j) :
    (j = .reset → i = .reset) ∧ ((∃ c, j = .tmo c) → i = .reset ∨ ∃ c, i = .tmo c) ∧
      ((j = .fall ∨ ∃ d, j = .rise d) → i.isCommand = false) := by
  refine ⟨?_, ?_, ?_⟩
  · rintro rfl
    cases i <;> simp [coincidenceRank] at h ⊢
  · rintro ⟨c, rfl⟩
    cases i <;> simp [coincidenceRank] at h ⊢
  · rintro (rfl | ⟨d, rfl⟩) <;> cases i <;> simp [coincidenceRank, Instr.isCommand] at h ⊢

/-- Settles O47: the stimuli are sorted by rank, and the ranks are in the order of R156. -/
theorem coincidentStimuliAreOrdered : Obligations.CoincidentStimuliAreOrdered := by
  constructor
  · intro c d k
    simp [coincidenceRank]
  · intro is
    exact ⟨orderCoincident_perm is, (orderCoincident_pairwise is).imp fun {i j} h => order_of_rank_le i j h⟩

end Sys2Proof.Machine
end

section
/-!
PROOFS. The step and the waiting callers (`20_memory.md` R50, R53, R56, `42_transaction_gate.md` R120, `10_state.md`
R22, `70_reset_and_hazards.md` R176).
-/

namespace Sys2Proof.Machine

open Safety

/-! ### Which words are commands -/

/-- The class of R61: a word of class 0 that spells an operation spells a command. -/
theorem clsOf_of_decode (w : StimWord) (i : Instr) (h : decode w = .ok i) : clsOf w = !i.isCommand := by
  have cls : clsOf w = (instrFields i).cls := congrArg Fields.cls (fieldsOf_of_decode w i h)
  rw [cls]
  cases i <;> rfl

/-- The port's decoder accepts the words of the commands (R60, R64). -/
theorem decodeOnPort_eq_ok_iff (w : StimWord) (i : Instr) :
    decodeOnPort w = .ok i ↔ decode w = .ok i ∧ i.isCommand = true := by
  unfold decodeOnPort
  constructor
  · intro h
    cases hc : clsOf w with
    | true => simp [hc] at h
    | false =>
      have hd : decode w = .ok i := by simpa [hc] using h
      exact ⟨hd, by simpa [hc] using clsOf_of_decode w i hd⟩
  · rintro ⟨hd, hi⟩
    simp [clsOf_of_decode w i hd, hi, hd]

theorem decodeOnPort_encode (i : Instr) (hi : i.isCommand = true) : decodeOnPort (encode i) = .ok i :=
  (decodeOnPort_eq_ok_iff _ i).2 ⟨decode_encode i, hi⟩

/-! ### What a command does to a ready block, and what any operation does to the waiting words -/

theorem startTxn_mode_ne_idle (p : Dir) (s : State) : (startTxn p s).mode ≠ .idle := by
  rcases startTxn_cases p s with ⟨-, ht⟩ | ⟨-, ht⟩ <;> rw [ht]
  · simp
  · cases p <;> simp [dirMode]

/-- A command is accepted in Idle and leaves Idle in the same step (R53); who else waits goes on waiting. -/
theorem exec_command_idle (i : Instr) (s : State) (hi : i.isCommand = true) (idle : s.mode = .idle) :
    ∃ t, exec i s = .next t ∧ t.mode ≠ .idle ∧ t.presented = s.presented := by
  cases i with
  | init => exact ⟨_, exec_init_idle s idle, by simp⟩
  | sync => exact ⟨_, exec_sync_idle s idle, by simp⟩
  | rdst => exact ⟨_, exec_rdst_idle s idle, startTxn_mode_ne_idle _ _, by simp⟩
  | wrkey k => exact ⟨_, exec_wrkey_idle k s idle, startTxn_mode_ne_idle _ _, by simp⟩
  | rise _ | fall | tmo _ | reset => cases hi

/-- An operation leaves the waiting words as they are, or is a command that is held and joins them (R120). -/
theorem exec_presented_cases (i : Instr) (s t : State) (h : exec i s = .next t) :
    t.presented = s.presented ∨ (i.isCommand = true ∧ s.mode ≠ .idle ∧ t.presented = s.presented ++ [encode i]) := by
  rcases exec_eq_next i s t h with ⟨hi, busy, rfl⟩ | ⟨-, -, rfl⟩ | ⟨-, -, rfl⟩ | ⟨-, -, rfl⟩ | ⟨k, -, -, rfl⟩ |
    ⟨d, -, hrise⟩ | ⟨-, hfall⟩ | ⟨c, -, -, -, rfl⟩ | ⟨-, rfl⟩
  · exact .inr ⟨hi, busy, rfl⟩
  · simp
  · simp
  · simp
  · simp
  · rcases hrise with ⟨-, rfl⟩ | ⟨-, rfl⟩ | ⟨-, rfl⟩ | ⟨-, rfl⟩ <;> simp
  · rcases hfall with ⟨-, rfl⟩ | ⟨-, rfl⟩ | ⟨-, rfl⟩ | ⟨-, rfl⟩ <;> simp
  · simp
  · simp

/-! ### Steps -/

/-- With nothing to do the step leaves the state as it is (R152). -/
theorem step_nothing (s : State) (h : s.mode ≠ .idle ∨ s.presented = []) (hs : s.stim = []) : step s = .next s := by
  simp [step, fetch_eq_fetchTrace s h, fetchTrace, hs]

/-- In Idle the chosen caller's word is what the step decodes (R56, R120). -/
theorem fetch_chosen (s : State) (k : Nat) (w : StimWord) (ws : List StimWord) (n : Nat) (idle : s.mode = .idle)
    (hc : chooseCaller s.presented s.draws = some (k, w, ws, n)) :
    fetch s = .onPort k w { s with presented := ws, draws := n } := by
  simp [fetch, idle, hc]

theorem step_chosen (s : State) (k : Nat) (w : StimWord) (ws : List StimWord) (n : Nat) (idle : s.mode = .idle)
    (hc : chooseCaller s.presented s.draws = some (k, w, ws, n)) :
    step s = runDecoded (decodeOnPort w) { s with presented := ws, draws := n } := by
  rw [step, fetch_chosen s k w ws n idle hc]

/-- Settles O5: each clause is the step over what is fetched there. -/
theorem stepRunsTheDecodedStimulus : Obligations.StepRunsTheDecodedStimulus := by
  refine ⟨fun s w ws i h hs hd => step_word s i w ws h hs hd, ?_, fun s k ws h hs => step_withdraw s k ws h hs,
    step_nothing⟩
  intro s w i idle hp hd
  rw [step_eq_runDecoded_onPort s w idle hp, hd, runDecoded]

/-- A table word that stands for an operation spells it. -/
theorem decode_tableWord (nbits w : Nat) (i : Instr) (h : decodeTableWord nbits w = some i) :
    decode (tableWord nbits w) = .ok i := by
  unfold decodeTableWord at h
  split at h
  · cases hd : decode (tableWord nbits w) with
    | ok j => simpa [hd] using h
    | error r => simp [hd] at h
  · cases h

/-- Settles O6: the placed word is the one fetched. -/
theorem placedWordRunsNext : Obligations.PlacedWordRunsNext := by
  intro s nbits w i h
  obtain ⟨t, fetched, same, cfg, stim⟩ := fetch_placeNext (tableWord nbits w) s
  refine ⟨t, ?_, same, cfg, stim⟩
  rw [State.withFetchWord, step, fetched]
  simp [decode_tableWord nbits w i h, runDecoded]

/-! ### Waiting callers -/

/-- Settles O7: the chosen word is a command's, and a ready block accepts it. -/
theorem someWaitingCallerIsServed : Obligations.SomeWaitingCallerIsServed := by
  intro s idle waiting valid
  obtain ⟨⟨k, w, rest, n⟩, hc⟩ := chooseCaller_isSome s.presented s.draws waiting
  obtain ⟨chosen, others⟩ := chooseCaller_eq_some _ _ _ _ _ _ hc
  obtain ⟨hk, hw⟩ := List.getElem?_eq_some_iff.1 chosen
  have mem : w ∈ s.presented := hw ▸ List.getElem_mem hk
  have perm : List.Perm (w :: rest) s.presented := by
    rw [others, ← hw]
    exact List.getElem_cons_eraseIdx_perm hk
  obtain ⟨i, hd⟩ := valid w mem
  obtain ⟨-, command⟩ := (decodeOnPort_eq_ok_iff w i).1 hd
  have hstep : step s = exec i { s with presented := rest, draws := n } := by
    rw [step_chosen s k w rest n idle hc, hd, runDecoded]
  obtain ⟨t, ht, busy, presented⟩ := exec_command_idle i { s with presented := rest, draws := n } command idle
  obtain ⟨-, stim⟩ := exec_cfg_stim i _ t ht
  exact ⟨w, i, rest, n, mem, perm, hd, hstep, t, hstep.trans ht, busy, presented, stim⟩

/-- Settles O8: the hold of each of the four commands. -/
theorem commandsAreHeldWhileBusy : Obligations.CommandsAreHeldWhileBusy :=
  fun s busy i hi => exec_command_busy i s hi busy

/-- Settles O9: a busy block looks at the trace only, and an operation only adds to the waiting words. -/
theorem heldCommandsAreNotLost : Obligations.HeldCommandsAreNotLost := by
  intro s t busy h
  rcases step_eq_next s t h with ⟨hs, rfl⟩ | ⟨k, ws, hs, rfl⟩ | ⟨w, ws, i, hs, -, hx⟩ | ⟨idle, -⟩
  · exact ⟨fun _ => ⟨[], by simp⟩, fun k ws hw => by simp [hs] at hw⟩
  · refine ⟨fun none => absurd hs (none k ws), fun l vs hw => ?_⟩
    obtain ⟨rfl, -⟩ : k = l ∧ ws = vs := by simpa [hs] using hw
    exact ⟨rfl, by simp [SameBlock]⟩
  · refine ⟨fun _ => ?_, fun k ws hw => by simp [hs] at hw⟩
    rcases exec_presented_cases i _ t hx with kept | ⟨-, -, added⟩
    · exact ⟨[], by simp [kept]⟩
    · exact ⟨[encode i], added⟩
  · exact absurd idle busy

/-- Two steps, one after the other. -/
theorem run_two (s t u : State) (hs : step s = .next t) (ht : step t = .next u) : run 2 s = .next u := by
  simp [run, hs, ht]

/-- Settles O10: a withdrawal takes back what the hold added, and finds no accepted command. -/
theorem hostMayWithdrawAHeldCommand : Obligations.HostMayWithdrawAHeldCommand := by
  constructor
  · intro s i rest hi busy hs
    have held := (step_word s i _ _ (.inl busy) hs (decode_encode i)).trans
      (exec_command_busy i { s with stim := .withdraw s.presented.length :: rest } hi busy)
    refine run_two s _ _ held ((step_withdraw _ s.presented.length rest (.inl (by exact busy)) rfl).trans ?_)
    simp [withdraw, hold, List.eraseIdx_append_of_length_le]
  · intro s i rest hi idle hp hs
    obtain ⟨t, ht, busy, presented⟩ := exec_command_idle i { s with stim := rest } hi idle
    have accepted := step_word s i _ _ (.inr hp) hs (decode_encode i)
    rw [exec_withStim i { s with stim := rest } t (.withdraw 0 :: rest) ht] at accepted
    refine ⟨t, ht, run_two s _ _ accepted ((step_withdraw _ 0 rest (.inl (by exact busy)) rfl).trans ?_)⟩
    obtain ⟨-, stim⟩ := exec_cfg_stim i _ t ht
    have nobody : [] = t.presented := hp.symm.trans presented.symm
    have same : { t with stim := rest, presented := [] } = t := by
      rw [nobody, show rest = t.stim from stim.symm]
    simpa [withdraw, ← nobody] using same

/-- A held command leaves the block as it is and is among the waiting words. -/
theorem exec_command_held (i : Instr) (s : State) (hi : i.isCommand = true) (busy : s.mode ≠ .idle) :
    ∃ t, exec i s = .next t ∧ SameBlock s t ∧ encode i ∈ t.presented :=
  ⟨_, exec_command_busy i s hi busy, by simp [SameBlock], by simp⟩

/-- Settles O11: after a command the block is busy, so the next command is held. -/
theorem acceptanceIsTestAndSet : Obligations.AcceptanceIsTestAndSet := by
  intro s i hi
  refine ⟨exec_command_idle i s hi, exec_command_held i s hi, ?_⟩
  intro t j h hj
  have busy : t.mode ≠ .idle := by
    by_cases idle : s.mode = .idle
    · obtain ⟨u, hu, busy, -⟩ := exec_command_idle i s hi idle
      cases hu.symm.trans h
      exact busy
    · rw [exec_command_busy i s hi idle] at h
      cases h
      exact idle
  exact exec_command_held j t hj busy

/-! ### The `CMD` port (R22) -/

theorem cmdReady_iff (s : State) : s.cmdReady = true ↔ s.mode = .idle := beq_iff_eq

/-- Something stands on the port when a caller waits, or when the trace puts a word of class 0 there. -/
theorem cmdValid_iff (s : State) :
    s.cmdValid = true ↔ s.presented ≠ [] ∨ ∃ w ws, s.stim = .word w :: ws ∧ clsOf w = false := by
  rw [State.cmdValid, Option.isSome_iff_exists]
  constructor
  · rintro ⟨w, hw⟩
    rcases (cmd_eq_some s w).1 hw with ⟨k, ws, n, hc⟩ | ⟨-, ws, hs, cls⟩
    · refine .inl fun none => ?_
      simp [none, chooseCaller] at hc
    · exact .inr ⟨w, ws, hs, cls⟩
  · intro h
    by_cases none : s.presented = []
    · obtain ⟨w, ws, hs, cls⟩ := h.resolve_left (absurd none)
      exact ⟨w, (cmd_eq_some s w).2 (.inr ⟨none, ws, hs, cls⟩)⟩
    · obtain ⟨⟨k, w, ws, n⟩, hc⟩ := chooseCaller_isSome s.presented s.draws none
      exact ⟨w, (cmd_eq_some s w).2 (.inl ⟨k, ws, n, hc⟩)⟩

/-- A ready block takes the command on the port, at the same block. -/
theorem step_of_cmd (s : State) (w : StimWord) (i : Instr) (idle : s.mode = .idle) (hw : s.cmd = some w)
    (hd : decodeOnPort w = .ok i) :
    taken s = some i ∧ ∃ u, SameBlock s u ∧ u.cfg = s.cfg ∧ step s = exec i u := by
  rcases (cmd_eq_some s w).1 hw with ⟨k, ws, n, hc⟩ | ⟨none, ws, hs, -⟩
  · refine ⟨?_, { s with presented := ws, draws := n }, by simp [SameBlock], rfl, ?_⟩
    · simp [taken, fetch_chosen s k w ws n idle hc, hd, Except.toOption]
    · rw [step_chosen s k w ws n idle hc, hd, runDecoded]
  · obtain ⟨hd, -⟩ := (decodeOnPort_eq_ok_iff w i).1 hd
    exact ⟨taken_word s i w ws (.inr none) hs hd, { s with stim := ws }, by simp [SameBlock], rfl,
      step_word s i w ws (.inr none) hs hd⟩

/-- Only a command leaves Idle (R110). -/
theorem isCommand_of_leaves_idle (i : Instr) (s t : State) (idle : s.mode = .idle) (h : exec i s = .next t)
    (busy : t.mode ≠ .idle) : i.isCommand = true := by
  have arrow := modeArrow_of_mode_ne i s t h (by rwa [idle])
  generalize t.mode = m at arrow busy
  cases arrow with
  | initSyncing _ | syncSyncing _ | rdstSyncing _ _ | rdstReading _ _ | wrkeySyncing _ _ _ | wrkeyWriting _ _ _ => rfl
  | tmoReading _ hs _ _ | tmoWriting _ hs _ _ =>
    obtain ⟨syncing, -⟩ := (settling_iff s).1 hs
    simp [idle] at syncing
  | tmoIdle _ _ _ _ | readDone _ _ _ | writeDone _ _ | reset => exact absurd rfl busy

/-- Settles O12: the command on the port is the one fetched, and nothing but a command leaves Idle. -/
theorem commandsAreAcceptedWhenValidAndReady : Obligations.CommandsAreAcceptedWhenValidAndReady := by
  refine ⟨?_, ?_, ?_⟩
  · intro s w i ready hw hd
    have idle := (cmdReady_iff s).1 ready
    obtain ⟨htaken, u, same, cfg, hstep⟩ := step_of_cmd s w i idle hw hd
    obtain ⟨-, -, -, mode, -⟩ := id same
    obtain ⟨-, command⟩ := (decodeOnPort_eq_ok_iff w i).1 hd
    obtain ⟨t, ht, busy, -⟩ := exec_command_idle i u command (mode.trans idle)
    exact ⟨htaken, u, t, same, cfg, hstep, hstep.trans ht, busy⟩
  · intro s t h idle busy
    refine ⟨(cmdReady_iff s).2 idle, (cmdValid_iff s).2 ?_⟩
    rcases step_eq_next s t h with ⟨-, rfl⟩ | ⟨k, ws, -, rfl⟩ | ⟨w, ws, i, hs, hd, hx⟩ | ⟨-, k, w, ws, n, i, hc, -, -⟩
    · exact absurd idle busy
    · exact absurd idle busy
    · have command := isCommand_of_leaves_idle i { s with stim := ws } t idle hx busy
      exact .inr ⟨w, ws, hs, by rw [clsOf_of_decode w i hd, command, Bool.not_true]⟩
    · refine .inl fun none => ?_
      simp [none, chooseCaller] at hc
  · intro s i ready invalid htaken
    have nobody : ¬(s.presented ≠ [] ∨ ∃ w ws, s.stim = .word w :: ws ∧ clsOf w = false) := by
      rw [← cmdValid_iff, invalid]
      simp
    obtain ⟨none, noWord⟩ := not_or.1 nobody
    rw [taken, fetch_eq_fetchTrace s (.inr (not_not.1 none))] at htaken
    rcases fetchTrace_cases s with ⟨-, hf⟩ | ⟨w, ws, hs, hf⟩ | ⟨k, ws, -, hf⟩ <;> rw [hf] at htaken
    · cases htaken
    · cases hd : decode w with
      | ok j =>
        obtain rfl : j = i := by simpa [hd, Except.toOption] using htaken
        have cls : clsOf w = true := by
          cases hc : clsOf w with
          | true => rfl
          | false => exact absurd ⟨w, ws, hs, hc⟩ noWord
        simpa [cls] using clsOf_of_decode w j hd
      | error r => simp [hd, Except.toOption] at htaken
    · cases htaken

end Sys2Proof.Machine
end

section
/-!
PROOFS. The transaction gate (`42_transaction_gate.md`), the synchronizer (`40_synchronizer.md`), the routing of the
edges (`41_frame_engine.md`), reset (`70_reset_and_hazards.md`) and the ports (`10_state.md` R22): the full next states.
-/

namespace Sys2Proof.Machine

open Safety

/-! ### Sequences of operations -/

theorem execAll_cons (i : Instr) (is : List Instr) (s t : State) (h : exec i s = .next t) :
    execAll (i :: is) s = execAll is t := by
  simp [execAll, h]

theorem execAll_single (i : Instr) (s t : State) (h : exec i s = .next t) : execAll [i] s = .next t :=
  execAll_cons i [] s t h

/-- Without `TMO` a sequence of operations is never stopped. -/
theorem execAll_exists_next (is : List Instr) (s : State) (his : ∀ i ∈ is, ∀ c, i ≠ .tmo c) :
    ∃ t, execAll is s = .next t := by
  induction is generalizing s with
  | nil => exact ⟨s, rfl⟩
  | cons i is ih =>
    obtain ⟨hi, his⟩ := List.forall_mem_cons.1 his
    obtain ⟨u, hu⟩ := exec_exists_next i s hi
    rw [execAll_cons i is s u hu]
    exact ih u his

/-! ### The edges by MODE (R100, R101, R154) -/

theorem exec_rise_syncing (d : Level) (s : State) (hm : s.mode = .syncing) :
    exec (.rise d) s = .next (syncEdge .rising s) := by
  simp only [exec, execRise, hm]

theorem exec_fall_syncing (s : State) (hm : s.mode = .syncing) : exec .fall s = .next (syncEdge .falling s) := by
  simp only [exec, execFall, hm]

/-- `RISE` is off phase while Writing (R105). -/
theorem exec_rise_writing (d : Level) (s : State) (hm : s.mode = .writing) : exec (.rise d) s = .next s := by
  simp only [exec, execRise, hm]

/-- `FALL` is off phase while Reading (R105). -/
theorem exec_fall_reading (s : State) (hm : s.mode = .reading) : exec .fall s = .next s := by
  simp only [exec, execFall, hm]

theorem syncEdge_armed (pol : Edge) (s : State) (ha : s.sph = .armed) (hp : s.cfg.syncEdge = pol) :
    syncEdge pol s = { s with sph := .settling } := if_pos ⟨ha, hp.symm⟩

theorem syncEdge_dropped (pol : Edge) (s : State) (h : s.sph ≠ .armed ∨ s.cfg.syncEdge ≠ pol) : syncEdge pol s = s :=
  if_neg fun ⟨ha, hp⟩ => h.elim (· ha) (· hp.symm)

theorem idleEdge_release (s : State) (h : s.cfg.idleEdgeAction = .release) : idleEdge s = { s with doe := false } := by
  simp only [idleEdge, h, State.release]

theorem idleEdge_none (s : State) (h : s.cfg.idleEdgeAction = .none) : idleEdge s = s := by
  simp only [idleEdge, h]

theorem idleEdge_drivePassive (s : State) (h : s.cfg.idleEdgeAction = .drivePassive) :
    idleEdge s = { s with doe := true, dout := s.cfg.passiveLevel } := by
  simp only [idleEdge, h, State.drive]

/-- ReadBit in a read (R102). -/
theorem readBit_reading (d : Level) (s : State) (hm : s.mode = .reading) :
    readBit d s = { s with doe := false, sr := (s.sr <<< 1) ||| (BitVec.ofBool d).setWidth 16, ec := s.ec + 1#6,
                           mode := if s.ec + 1#6 = 16#6 then .idle else .reading } := by
  simp only [readBit, State.release, shiftIn, nextCount, hm]

/-- WriteBit in a write (R103). -/
theorem writeBit_writing (s : State) (hm : s.mode = .writing) :
    writeBit s = { s with doe := true, dout := s.wb.getLsbD (31 - s.ec.toNat), ec := s.ec + 1#6,
                          mode := if s.ec + 1#6 = 32#6 then .idle else .writing } := by
  simp only [writeBit, State.drive, driveBit_eq, nextCount, hm]

/-- Settles O21: one equation for each MODE. -/
theorem riseIsRoutedByMode : Obligations.RiseIsRoutedByMode := by
  intro s d
  refine ⟨?_, ?_, ?_, exec_rise_writing d s, ?_, ?_, ?_⟩
  · intro hm ha hp
    rw [exec_rise_syncing d s hm, syncEdge_armed .rising s ha hp]
  · intro hm h
    rw [exec_rise_syncing d s hm, syncEdge_dropped .rising s h]
  · intro hm
    rw [exec_rise_reading d s hm, readBit_reading d s hm]
  · intro hm ha
    rw [exec_rise_idle d s hm, idleEdge_release s ha]
  · intro hm ha
    rw [exec_rise_idle d s hm, idleEdge_none s ha]
  · intro hm ha
    rw [exec_rise_idle d s hm, idleEdge_drivePassive s ha]

/-- Settles O22: one equation for each MODE. -/
theorem fallIsRoutedByMode : Obligations.FallIsRoutedByMode := by
  intro s
  refine ⟨?_, ?_, ?_, exec_fall_reading s, ?_, ?_, ?_⟩
  · intro hm ha hp
    rw [exec_fall_syncing s hm, syncEdge_armed .falling s ha hp]
  · intro hm h
    rw [exec_fall_syncing s hm, syncEdge_dropped .falling s h]
  · intro hm
    exact ⟨s.wb.getLsbD (31 - s.ec.toNat), by rw [exec_fall_writing s hm, writeBit_writing s hm], fun _ => rfl⟩
  · intro hm ha
    rw [exec_fall_idle s hm, idleEdge_release s ha]
  · intro hm ha
    rw [exec_fall_idle s hm, idleEdge_none s ha]
  · intro hm ha
    rw [exec_fall_idle s hm, idleEdge_drivePassive s ha]

/-! ### `TMO` (R82) and the lock sequence (R69) -/

theorem exec_tmo_locks (c : Level) (s : State) (hm : s.mode = .syncing) (hs : s.sph = .settling)
    (hc : c = s.cfg.syncLevel) :
    exec (.tmo c) s = .next { s with lock := true, sph := .armed, mode := lockedMode s.pend, pend := none } := by
  rw [exec_tmo_settling c s ((settling_iff s).2 ⟨hm, hs⟩), settleExpire, if_pos hc]

theorem exec_tmo_rearms (c : Level) (s : State) (hm : s.mode = .syncing) (hs : s.sph = .settling)
    (hc : c ≠ s.cfg.syncLevel) : exec (.tmo c) s = .next { s with sph := .armed } := by
  rw [exec_tmo_settling c s ((settling_iff s).2 ⟨hm, hs⟩), settleExpire_wrongLevel c s hc]

/-- The sync edge starts the timer of an armed attempt (R81). -/
theorem exec_edgeStimulus_armed (s : State) (hm : s.mode = .syncing) (ha : s.sph = .armed) :
    exec (edgeStimulus s.cfg.syncEdge) s = .next { s with sph := .settling } := by
  cases hp : s.cfg.syncEdge with
  | rising => exact (exec_rise_syncing false s hm).trans (by rw [syncEdge_armed .rising s ha hp])
  | falling => exact (exec_fall_syncing s hm).trans (by rw [syncEdge_armed .falling s ha hp])

/-- LOCKSEQ ends an armed synchronisation with the lock, in the mode of what is pending (R69, R82). -/
theorem execAll_lockSeq (s : State) (hm : s.mode = .syncing) (ha : s.sph = .armed) :
    execAll (lockSeq s.cfg) s =
      .next { s with lock := true, sph := .armed, mode := lockedMode s.pend, pend := none } := by
  rw [lockSeq, execAll_cons _ _ s _ (exec_edgeStimulus_armed s hm ha)]
  exact execAll_single _ _ _ (exec_tmo_locks _ { s with sph := .settling } hm rfl rfl)

/-! ### The operations of the gate in full -/

theorem exec_rdst_locked (s : State) (idle : s.mode = .idle) (hn : s.needSync = false) :
    exec .rdst s = .next { s with ec := 0#6, sr := 0#16, mode := .reading } := by
  rw [exec_rdst_idle s idle, startTxn, if_neg (by simpa [State.needSync] using hn), dirMode]

theorem exec_rdst_unlocked (s : State) (idle : s.mode = .idle) (hn : s.needSync = true) :
    exec .rdst s = .next { s with ec := 0#6, sr := 0#16, lock := false, pend := some .read, sph := .armed,
                                  mode := .syncing } := by
  rw [exec_rdst_idle s idle, startTxn, if_pos (by simpa [State.needSync] using hn), startSync]

theorem exec_wrkey_locked (k : KeyCode) (s : State) (idle : s.mode = .idle) (hn : s.needSync = false) :
    exec (.wrkey k) s =
      .next { s with wb := rep4 (payload s.cfg.keyInvert k), ec := 0#6, mode := .writing } := by
  rw [exec_wrkey_idle k s idle, startTxn, if_neg (by simpa [State.needSync] using hn), dirMode]

theorem exec_wrkey_unlocked (k : KeyCode) (s : State) (idle : s.mode = .idle) (hn : s.needSync = true) :
    exec (.wrkey k) s =
      .next { s with wb := rep4 (payload s.cfg.keyInvert k), ec := 0#6, lock := false, pend := some .write,
                     sph := .armed, mode := .syncing } := by
  rw [exec_wrkey_idle k s idle, startTxn, if_pos (by simpa [State.needSync] using hn), startSync]

/-- NeedSync (R122). -/
theorem needSync_eq_true (s : State) : s.needSync = true ↔ s.lock = false ∨ s.cfg.resyncEachTxn = true := by
  simp [State.needSync]

/-- Settles O13: INIT releases and arms, the lock sequence locks, and a busy block holds. -/
theorem initReleasesAndSynchronises : Obligations.InitReleasesAndSynchronises := by
  intro s
  refine ⟨fun idle => exec_init_idle s idle, fun idle => ?_, exec_command_held .init s rfl⟩
  rw [execAll_cons .init _ s _ (exec_init_idle s idle)]
  exact execAll_lockSeq (startSync none s.release) rfl rfl

/-- Settles O14: the two branches of StartTxn, and the hold. -/
theorem rdstStartsRead : Obligations.RdstStartsRead := by
  intro s
  exact ⟨fun idle lock resync => exec_rdst_locked s idle ((needSync_eq_false s).2 ⟨lock, resync⟩),
    fun idle h => exec_rdst_unlocked s idle ((needSync_eq_true s).2 h), exec_command_held .rdst s rfl⟩

/-- Settles O15: the two branches of StartTxn, and the hold. -/
theorem wrkeyStartsWrite : Obligations.WrkeyStartsWrite := by
  rintro s k _ rfl
  exact ⟨fun idle lock resync => exec_wrkey_locked k s idle ((needSync_eq_false s).2 ⟨lock, resync⟩),
    fun idle h => exec_wrkey_unlocked k s idle ((needSync_eq_true s).2 h), exec_command_held (.wrkey k) s rfl⟩

/-- Settles O16: SYNC arms an unlocked attempt, which only a `TMO` or `RESET` can end. -/
theorem syncAlwaysResynchronises : Obligations.SyncAlwaysResynchronises := by
  intro s
  refine ⟨fun idle => exec_sync_idle s idle, fun idle => ?_, fun idle es hes => ?_, exec_command_held .sync s rfl⟩
  · rw [execAll_cons .sync _ s _ (exec_sync_idle s idle)]
    exact execAll_lockSeq (startSync none s) rfl rfl
  · obtain ⟨t, ht⟩ := execAll_exists_next es (startSync none s) fun i hi => (hes i hi).2
    have unlocked : StillUnlocked (startSync none s) t :=
      execAll_keeps _ _ (exec_keeps_stillUnlocked (startSync none s)) es _ t
        (fun i hi => ⟨(hes i hi).1, (hes i hi).2 _⟩) ⟨rfl, rfl, rfl, rfl⟩ ht
    exact ⟨t, by rw [execAll_cons .sync _ s _ (exec_sync_idle s idle), ht], unlocked.mode, unlocked.lock⟩

/-! ### LOCK (R16) -/

theorem startTxn_lock_cases (p : Dir) (s : State) :
    (startTxn p s).lock = s.lock ∨ ((startTxn p s).lock = false ∧ s.needSync = true) := by
  rcases startTxn_cases p s with ⟨hn, ht⟩ | ⟨-, ht⟩ <;> simp [*]

/-- What an operation does to LOCK (R16): only a `TMO` of the expected level sets it. -/
theorem exec_lock_cases (i : Instr) (s t : State) (h : exec i s = .next t) :
    t.lock = s.lock ∨ (t.lock = true ∧ s.mode = .syncing ∧ s.sph = .settling ∧ i = .tmo s.cfg.syncLevel) ∨
      (t.lock = false ∧ (i = .reset ∨ (s.mode = .idle ∧ (i = .init ∨ i = .sync ∨
        (s.needSync = true ∧ (i = .rdst ∨ ∃ k, i = .wrkey k)))))) := by
  rcases exec_eq_next i s t h with ⟨-, -, rfl⟩ | ⟨rfl, idle, rfl⟩ | ⟨rfl, idle, rfl⟩ | ⟨rfl, idle, rfl⟩ |
    ⟨k, rfl, idle, rfl⟩ | ⟨d, -, hrise⟩ | ⟨-, hfall⟩ | ⟨c, rfl, syncing, settling, rfl⟩ | ⟨rfl, rfl⟩
  · exact .inl rfl
  · exact .inr (.inr ⟨rfl, .inr ⟨idle, .inl rfl⟩⟩)
  · exact .inr (.inr ⟨rfl, .inr ⟨idle, .inr (.inl rfl)⟩⟩)
  · rcases startTxn_lock_cases .read { s with ec := 0#6, sr := 0#16 } with kept | ⟨cleared, hn⟩
    · exact .inl kept
    · exact .inr (.inr ⟨cleared, .inr ⟨idle, .inr (.inr ⟨hn, .inl rfl⟩)⟩⟩)
  · rcases startTxn_lock_cases .write { s with wb := rep4 (payload s.cfg.keyInvert k), ec := 0#6 } with
      kept | ⟨cleared, hn⟩
    · exact .inl kept
    · exact .inr (.inr ⟨cleared, .inr ⟨idle, .inr (.inr ⟨hn, .inr ⟨k, rfl⟩⟩)⟩⟩)
  · rcases hrise with ⟨-, rfl⟩ | ⟨-, rfl⟩ | ⟨-, rfl⟩ | ⟨-, rfl⟩ <;> simp
  · rcases hfall with ⟨-, rfl⟩ | ⟨-, rfl⟩ | ⟨-, rfl⟩ | ⟨-, rfl⟩ <;> simp
  · rcases settleExpire_cases c s with ⟨rfl, ht⟩ | ⟨-, ht⟩ <;> rw [ht]
    · exact .inr (.inl ⟨rfl, syncing, settling, rfl⟩)
    · exact .inl rfl
  · exact .inr (.inr ⟨rfl, .inl rfl⟩)

/-- Settles O19: with the lock held, NeedSync is RESYNC_EACH_TXN. -/
theorem lockIsSetAndClearedOnlyAsStated : Obligations.LockIsSetAndClearedOnlyAsStated := by
  intro i s t h
  refine ⟨fun before after => ?_, fun before after => ?_, rfl⟩
  · rcases exec_lock_cases i s t h with kept | ⟨-, set⟩ | ⟨cleared, -⟩
    · simp [before, after] at kept
    · exact set
    · simp [after] at cleared
  · rcases exec_lock_cases i s t h with kept | ⟨set, -⟩ | ⟨-, by_reset | ⟨idle, by_init | by_sync | ⟨hn, by_txn⟩⟩⟩
    · simp [before, after] at kept
    · simp [after] at set
    · exact .inl by_reset
    · exact .inr ⟨idle, .inl by_init⟩
    · exact .inr ⟨idle, .inr (.inl by_sync)⟩
    · have resync : s.cfg.resyncEachTxn = true := ((needSync_eq_true s).1 hn).resolve_left (by simp [before])
      exact .inr ⟨idle, .inr (.inr ⟨resync, by_txn⟩)⟩

/-- Settles O17: the two branches of `TMO`, its guard, and the invariant at the hand-off. -/
theorem tmoLocksOrRearms : Obligations.TmoLocksOrRearms := by
  intro s c
  refine ⟨fun hm hs hc => ?_, exec_tmo_rearms c s, fun h => ?_, fun inv hm => ?_, fun i t h before after => ?_⟩
  · have locks := exec_tmo_locks c s hm hs hc
    refine ⟨fun hp => ?_, fun hp => ?_, fun hp => ?_⟩ <;> rw [locks, hp] <;> rfl
  · exact exec_tmo_not_settling c s (not_and_or.2 h)
  · exact ⟨fun hp => ⟨inv.pendCountZero hm (by simp [hp]), inv.pendReadClear hm hp⟩,
      fun hp => inv.pendCountZero hm (by simp [hp])⟩
  · obtain ⟨-, -, hi⟩ := (lockIsSetAndClearedOnlyAsStated i s t h).1 before after
    exact hi

/-- Settles O20: the locking `TMO` leaves MODE to the frame engine, with EC (and SR) cleared by the invariant. -/
theorem handOffLosesNoEdge : Obligations.HandOffLosesNoEdge := by
  intro s d inv hm hs
  constructor <;> intro hp <;> rw [execAll_cons _ _ s _ (exec_tmo_locks _ s hm hs rfl)] <;>
    apply execAll_single
  · have ec := inv.pendCountZero hm (by simp [hp])
    have sr := inv.pendReadClear hm hp
    rw [exec_rise_reading d _ (by simp [hp, lockedMode, dirMode]),
      readBit_reading d _ (by simp [hp, lockedMode, dirMode])]
    simp [ec, sr]
  · have ec := inv.pendCountZero hm (by simp [hp])
    rw [exec_fall_writing _ (by simp [hp, lockedMode, dirMode]), writeBit_writing _ (by simp [hp, lockedMode, dirMode])]
    simp [ec]

/-! ### The end of a write (R108) -/

/-- The thirty-second bit of a write is `WB[0]` (R103). -/
theorem exec_fall_lastBit (s : State) (hm : s.mode = .writing) (hec : s.ec = 31#6) :
    exec .fall s = .next { s with doe := true, dout := s.wb.getLsbD 0, ec := 32#6, mode := .idle } := by
  rw [exec_fall_writing s hm, writeBit_writing s hm]
  simp [hec]

/-- Settles O29: the next edge in Idle releases the line; in an accepted write it is off phase. -/
theorem lastBitStaysDriven : Obligations.LastBitStaysDriven := by
  intro s d k hm hec hrel
  have last := exec_fall_lastBit s hm hec
  refine ⟨last, ?_, fun lock resync => ?_⟩
  · rw [execAll_cons _ _ s _ last]
    apply execAll_single
    rw [exec_rise_idle d _ rfl, idleEdge_release _ (by exact hrel)]
  · rw [execAll_cons _ _ s _ last,
      execAll_cons _ _ _ _ (exec_wrkey_locked k _ rfl (by simp [State.needSync, lock, resync])),
      execAll_cons _ _ _ _ (exec_rise_writing d _ rfl)]
    exact ⟨_, rfl, rfl, rfl, rfl, _, exec_fall_writing _ rfl, rfl, by simp [driveBit_eq]⟩

/-! ### Reset (R170) -/

theorem exec_reset (s : State) :
    exec .reset s =
      .next { drawUnspecified s with mode := .idle, lock := false, pend := none, sph := .armed, doe := false } := rfl

/-- Settles O33: the unspecified registers take the free values of the next draw. -/
theorem resetEndsEverything : Obligations.ResetEndsEverything := by
  intro s
  refine ⟨_, _, _, _, _, exec_reset s, fun c t h => ?_⟩
  rw [execReset_eq_next s t h]
  exact ⟨exec_tmo_not_settling c _ (by simp), rfl⟩

/-- Settles O34: the fields of `State.reset`. -/
theorem resetStateHasTheStatedValues : Obligations.ResetStateHasTheStatedValues :=
  ⟨rfl, rfl, rfl, rfl, rfl, rfl⟩

/-- Settles O35: reset clears LOCK, so that a transaction synchronises first. -/
theorem resetNeedsNoInit : Obligations.ResetNeedsNoInit := by
  intro s k
  constructor <;> rw [execAll_cons _ _ s _ (exec_reset s)]
  · exact ⟨_, execAll_single _ _ _ (exec_rdst_unlocked _ rfl rfl), rfl, rfl, rfl, rfl, rfl, rfl, rfl⟩
  · exact ⟨_, execAll_single _ _ _ (exec_wrkey_unlocked k _ rfl rfl), rfl, rfl, rfl, rfl, rfl, rfl, rfl⟩

/-! ### The ports (R22) -/

/-- Settles O45: by the values of MODE. -/
theorem portsEqualTheirRegisters : Obligations.PortsEqualTheirRegisters := by
  intro s
  refine ⟨rfl, rfl, rfl, rfl, rfl, cmdReady_iff s, ?_, ?_, ?_, ?_, ?_⟩
  · rw [Ne, ← ports_busy_eq_false, Bool.not_eq_false]
  all_goals
    simp only [State.ports]
    cases s.mode <;> simp [modeCode]

end Sys2Proof.Machine
end

section
/-!
PROOFS. The frame engine (`41_frame_engine.md`): paths of a busy block, the bits of a read (R102), the bits of a write
(R103), and the stalled clock (R107).
-/

namespace Sys2Proof.Machine

open Safety

/-! ### Paths of a busy block -/

/-- The operations lead from the first state to the last, and none of them meets an Idle block: a held command cannot
come between them (R68, R120). -/
inductive BusyPath : State → List Instr → State → Prop where
  | nil (s : State) : BusyPath s [] s
  | cons {s t u : State} {i : Instr} {is : List Instr} (busy : s.mode ≠ .idle) (head : exec i s = .next t)
      (tail : BusyPath t is u) : BusyPath s (i :: is) u

theorem BusyPath.single {s t : State} {i : Instr} (busy : s.mode ≠ .idle) (h : exec i s = .next t) :
    BusyPath s [i] t :=
  .cons busy h (.nil t)

theorem BusyPath.append {s t u : State} {is js : List Instr} (h : BusyPath s is t) (k : BusyPath t js u) :
    BusyPath s (is ++ js) u := by
  induction h with
  | nil => exact k
  | cons busy head _ ih => exact .cons busy head (ih k)

theorem BusyPath.execAll_eq {s t : State} {is : List Instr} (h : BusyPath s is t) : execAll is s = .next t := by
  induction h with
  | nil => rfl
  | cons _ head _ ih => rw [execAll_cons _ _ _ _ head, ih]

/-- A clock edge. -/
def IsEdge (i : Instr) : Prop := i = .fall ∨ ∃ d, i = .rise d

/-! ### The counter -/

/-- `toNat_nextCount` with the sum written out, as the full next states have it. -/
theorem toNat_add_one (ec : EdgeCount) (h : ec.toNat < 63) : (ec + 1#6).toNat = ec.toNat + 1 := toNat_nextCount ec h

theorem add_one_ne (ec : EdgeCount) (n : Nat) (h : ec.toNat + 1 < n) (hn : n < 64) : ec + 1#6 ≠ BitVec.ofNat 6 n := by
  intro heq
  have := toNat_add_one ec (by omega)
  rw [heq, BitVec.toNat_ofNat, Nat.mod_eq_of_lt (by omega)] at this
  omega

/-! ### The bits of a read -/

/-- The levels that the panel-phase edges sample, in order. -/
def samples (es : List Instr) : List Level :=
  es.filterMap fun
    | .rise d => some d
    | _ => none

@[simp] theorem samples_rise_cons (d : Level) (es : List Instr) : samples (.rise d :: es) = d :: samples es := rfl
@[simp] theorem samples_fall_cons (es : List Instr) : samples (.fall :: es) = samples es := rfl
theorem samples_append (es fs : List Instr) : samples (es ++ fs) = samples es ++ samples fs := List.filterMap_append

/-- `t` is the read of `s` after the samples `ds`: besides SR, EC and the released line nothing moved. -/
structure ReadProgress (s : State) (ds : List Level) (t : State) : Prop where
  sr : t.sr = ds.foldl shiftIn s.sr
  ec : t.ec.toNat = s.ec.toNat + ds.length
  frame : t = { s with sr := t.sr, ec := t.ec, doe := t.doe }

/-- A sample short of the sixteenth (R102). -/
theorem exec_rise_midRead (d : Level) (s : State) (hm : s.mode = .reading) (h : s.ec.toNat < 15) :
    exec (.rise d) s = .next { s with doe := false, sr := shiftIn s.sr d, ec := s.ec + 1#6 } := by
  rw [exec_rise_reading d s hm, readBit_reading d s hm, if_neg (add_one_ne s.ec 16 (by omega) (by omega)), ← hm]
  rfl

/-- The sixteenth sample ends the read (R102). -/
theorem exec_rise_lastSample (d : Level) (s : State) (hm : s.mode = .reading) (h : s.ec.toNat = 15) :
    exec (.rise d) s = .next { s with doe := false, sr := shiftIn s.sr d, ec := 16#6, mode := .idle } := by
  have hec : s.ec = 15#6 := BitVec.eq_of_toNat_eq h
  rw [exec_rise_reading d s hm, readBit_reading d s hm, hec]
  rfl

/-- The edges of a read short of its sixteenth sample: induction on the edges. -/
theorem busyPath_read (es : List Instr) (s : State) (hes : ∀ i ∈ es, IsEdge i) (hm : s.mode = .reading)
    (bound : s.ec.toNat + (samples es).length ≤ 15) : ∃ t, BusyPath s es t ∧ ReadProgress s (samples es) t := by
  have busy : s.mode ≠ .idle := by simp [hm]
  induction es generalizing s with
  | nil => exact ⟨s, .nil s, rfl, rfl, rfl⟩
  | cons i es ih =>
    obtain ⟨hi, htail⟩ := List.forall_mem_cons.1 hes
    rcases hi with rfl | ⟨d, rfl⟩
    · obtain ⟨t, path, progress⟩ := ih s htail hm bound busy
      exact ⟨t, .cons busy (exec_fall_reading s hm) path, progress⟩
    · rw [samples_rise_cons, List.length_cons] at bound
      have count := toNat_add_one s.ec (by omega)
      obtain ⟨t, path, ⟨sr, ec, frame⟩⟩ :=
        ih { s with doe := false, sr := shiftIn s.sr d, ec := s.ec + 1#6 } htail hm (by simp only [count]; omega) busy
      refine ⟨t, .cons busy (exec_rise_midRead d s hm (by omega)) path, sr, ?_, frame⟩
      rw [ec, count, samples_rise_cons, List.length_cons]
      omega

/-- A whole read: sixteen samples, the last edge being the sixteenth `RISE`. -/
theorem busyPath_wholeRead (es : List Instr) (d : Level) (s : State) (hes : ∀ i ∈ es, IsEdge i) (hm : s.mode = .reading)
    (hec : s.ec = 0#6) (len : (samples es).length = 15) :
    ∃ t, BusyPath s es t ∧ t.mode = .reading ∧ t.ec = 15#6 ∧
      exec (.rise d) t = .next { s with sr := (samples es ++ [d]).foldl shiftIn s.sr, ec := 16#6, doe := false,
                                        mode := .idle } := by
  obtain ⟨t, path, ⟨sr, ec, frame⟩⟩ := busyPath_read es s hes hm (by simp [hec, len])
  have count : t.ec.toNat = 15 := by simp [ec, hec, len]
  have reading : t.mode = .reading := by rw [frame, hm]
  refine ⟨t, path, reading, BitVec.eq_of_toNat_eq count, ?_⟩
  rw [exec_rise_lastSample d t reading count, List.foldl_append, ← sr, frame]
  rfl

/-! ### The status register after sixteen samples -/

theorem getLsbD_shiftIn_zero (sr : StatusWord) (d : Level) : (shiftIn sr d).getLsbD 0 = d := by
  simp [shiftIn]

theorem getLsbD_shiftIn_succ (sr : StatusWord) (d : Level) (n : Nat) (h : n + 1 < 16) :
    (shiftIn sr d).getLsbD (n + 1) = sr.getLsbD n := by
  simp [shiftIn, h, BitVec.getLsbD_eq_getElem, show n < 16 by omega]

/-- The last sample stands in bit 0, the one before it in bit 1, and so on (R42). -/
theorem getLsbD_foldl_shiftIn (ds : List Level) (sr : StatusWord) (n : Nat) (hn : n < 16) (h : n < ds.length) :
    (ds.foldl shiftIn sr).getLsbD n = ds[ds.length - 1 - n] := by
  induction ds using List.reverseRecOn generalizing n with
  | nil => simp at h
  | append_singleton ds d ih =>
    rw [List.foldl_append]
    cases n with
    | zero => simpa using getLsbD_shiftIn_zero _ d
    | succ n =>
      have hlen : n < ds.length := by simpa using h
      have : (ds ++ [d]).length - 1 - (n + 1) = ds.length - 1 - n := by simp; omega
      simp only [this]
      rw [List.getElem_append_left (by omega), ← ih n (by omega) hlen]
      exact getLsbD_shiftIn_succ _ d n hn

/-- Sixteen samples fill SR, the first in `SR[15]`. -/
theorem foldl_shiftIn_eq (ds : List Level) (sr w : StatusWord) (len : ds.length = 16)
    (bits : ∀ n (hn : n < 16), ds[n]'(by omega) = w.getLsbD (15 - n)) : ds.foldl shiftIn sr = w := by
  apply BitVec.eq_of_getLsbD_eq
  intro n hn
  rw [getLsbD_foldl_shiftIn ds sr n hn (by omega), bits _ (by omega)]
  congr 1
  omega

theorem length_statusBits (m : StatusWord) : (statusBits m).length = 16 := by simp [statusBits]

theorem getElem_statusBits (m : StatusWord) (n : Nat) (h : n < (statusBits m).length) :
    (statusBits m)[n] = m.getLsbD (15 - n) := by simp [statusBits]

theorem foldl_shiftIn_statusBits (m sr : StatusWord) : (statusBits m).foldl shiftIn sr = m :=
  foldl_shiftIn_eq _ sr m (length_statusBits m) fun n hn =>
    getElem_statusBits m n (by simpa [length_statusBits] using hn)

/-! ### Reads over edges and over cycles -/

theorem isEdge_readEdges (ps : List (Nat × Level)) : ∀ i ∈ readEdges ps, IsEdge i := by
  intro i hi
  obtain ⟨p, -, hi⟩ := List.mem_flatMap.1 hi
  rcases List.mem_append.1 hi with hi | hi
  · exact .inl (List.eq_of_mem_replicate hi)
  · exact .inr ⟨p.2, List.mem_singleton.1 hi⟩

theorem samples_replicate_fall (n : Nat) : samples (List.replicate n .fall) = [] := by
  induction n with
  | zero => rfl
  | succ n ih => rw [List.replicate_succ, samples_fall_cons, ih]

theorem samples_readEdges (ps : List (Nat × Level)) : samples (readEdges ps) = ps.map (·.2) := by
  induction ps with
  | nil => rfl
  | cons p ps ih =>
    rw [readEdges, List.flatMap_cons, ← readEdges, samples_append, samples_append, samples_replicate_fall, ih]
    rfl

/-- A cycle is a read edge with one off-phase edge before it (R45, R69). -/
theorem flatMap_cycle (ds : List Level) : ds.flatMap cycle = readEdges (ds.map fun d => (1, d)) := by
  rw [readEdges, List.flatMap_map]
  rfl

/-- The edges of a whole read end with its sixteenth `RISE`. -/
theorem readEdges_split (ps : List (Nat × Level)) (len : ps.length = 16) :
    ∃ es d, readEdges ps = es ++ [.rise d] ∧ (∀ i ∈ es, IsEdge i) ∧ (samples es).length = 15 ∧
      samples es ++ [d] = ps.map (·.2) := by
  obtain ⟨qs, q, rfl⟩ : ∃ qs q, ps = qs ++ [q] :=
    ⟨ps.dropLast, ps.getLast (by rintro rfl; simp at len), (List.dropLast_append_getLast _).symm⟩
  have split : readEdges (qs ++ [q]) = (readEdges qs ++ List.replicate q.1 .fall) ++ [.rise q.2] := by
    simp [readEdges]
  have seen : samples (readEdges qs ++ List.replicate q.1 .fall) = qs.map (·.2) := by
    rw [samples_append, samples_readEdges, samples_replicate_fall, List.append_nil]
  refine ⟨_, q.2, split, fun i hi => isEdge_readEdges (qs ++ [q]) i ?_, ?_, ?_⟩
  · rw [split]
    exact List.mem_append_left _ hi
  · rw [seen]
    simpa using len
  · rw [seen]
    simp

/-- A whole read over its edges: the state at its last edge, and what that edge does. -/
theorem busyPath_readEdges (ps : List (Nat × Level)) (s : State) (len : ps.length = 16) (hm : s.mode = .reading)
    (hec : s.ec = 0#6) :
    ∃ es d t, readEdges ps = es ++ [.rise d] ∧ BusyPath s es t ∧ t.mode = .reading ∧ t.ec = 15#6 ∧
      exec (.rise d) t = .next { s with sr := (ps.map (·.2)).foldl shiftIn s.sr, ec := 16#6, doe := false,
                                        mode := .idle } := by
  obtain ⟨es, d, split, edges, fifteen, seen⟩ := readEdges_split ps len
  obtain ⟨t, path, reading, count, last⟩ := busyPath_wholeRead es d s edges hm hec fifteen
  exact ⟨es, d, t, split, path, reading, count, seen ▸ last⟩

theorem execAll_readEdges (ps : List (Nat × Level)) (s : State) (len : ps.length = 16) (hm : s.mode = .reading)
    (hec : s.ec = 0#6) :
    execAll (readEdges ps) s =
      .next { s with sr := (ps.map (·.2)).foldl shiftIn s.sr, ec := 16#6, doe := false, mode := .idle } := by
  obtain ⟨es, d, t, split, path, reading, -, last⟩ := busyPath_readEdges ps s len hm hec
  rw [split]
  exact (path.append (.single (by simp [reading]) last)).execAll_eq

/-- Settles O23: induction on the edges, and the bit of each sample in SR. -/
theorem readCollectsSixteenSamplesInOrder : Obligations.ReadCollectsSixteenSamplesInOrder := by
  constructor
  · intro s d hm
    rw [exec_rise_reading d s hm, readBit_reading d s hm]
  · intro ps s hm hec len
    refine ⟨_, execAll_readEdges ps s len hm hec, fun n hn => ?_⟩
    rw [getLsbD_foldl_shiftIn _ _ _ (by omega) (by simp; omega)]
    simp [len, show 16 - 1 - (15 - n) = n by omega]

/-- The window of two packets, `k` bits late (R47 (b)). -/
theorem foldl_shiftIn_window (p q sr : StatusWord) (k : Nat) (hk : k ≤ 15) :
    ((statusBits p).drop k ++ (statusBits q).take k).foldl shiftIn sr = (p <<< k) ||| (q >>> (16 - k)) := by
  refine foldl_shiftIn_eq _ _ _ (by simp [length_statusBits]; omega) fun n hn => ?_
  rw [BitVec.getLsbD_or, BitVec.getLsbD_shiftLeft, BitVec.getLsbD_ushiftRight]
  by_cases h : n < 16 - k
  · rw [List.getElem_append_left (by simpa [length_statusBits] using h), List.getElem_drop, getElem_statusBits,
      BitVec.getLsbD_of_ge q _ (by omega)]
    simp [show ¬ 15 - n < k by omega, show 15 - n < 16 by omega, show 15 - (k + n) = 15 - n - k by omega]
  · rw [List.getElem_append_right (by simpa [length_statusBits] using Nat.not_lt.1 h), List.getElem_take,
      getElem_statusBits]
    simp [length_statusBits, show 15 - n < k by omega, show 15 - (n - (16 - k)) = 16 - k + (15 - n) by omega]

/-- Settles O28: the read over the window's cycles. -/
theorem misalignedReadShiftsTheWindow : Obligations.MisalignedReadShiftsTheWindow := by
  intro s p q k hk hm hec
  rw [flatMap_cycle, execAll_readEdges _ s (by simp [length_statusBits]; omega) hm hec, List.map_map]
  simp only [Function.comp_def, List.map_id', foldl_shiftIn_window p q s.sr k hk]

/-! ### The bits of a write -/

/-- `t` is the write of `s` with the counter at `n`: besides EC and the driven line nothing moved. -/
structure WriteProgress (s : State) (n : Nat) (t : State) : Prop where
  ec : t.ec.toNat = n
  frame : t = { s with ec := t.ec, doe := t.doe, dout := t.dout }

/-- A bit short of the thirty-second (R103). -/
theorem exec_fall_midWrite (s : State) (hm : s.mode = .writing) (h : s.ec.toNat < 31) :
    exec .fall s = .next { s with doe := true, dout := s.wb.getLsbD (31 - s.ec.toNat), ec := s.ec + 1#6 } := by
  rw [exec_fall_writing s hm, writeBit_writing s hm, if_neg (add_one_ne s.ec 32 (by omega) (by omega)), ← hm]

/-- The edges of a write short of its thirty-second bit: induction on the edges. -/
theorem busyPath_write (es : List Instr) (s : State) (hes : ∀ i ∈ es, IsEdge i) (hm : s.mode = .writing)
    (bound : s.ec.toNat + es.count .fall ≤ 31) :
    ∃ t, BusyPath s es t ∧ WriteProgress s (s.ec.toNat + es.count .fall) t := by
  have busy : s.mode ≠ .idle := by simp [hm]
  induction es generalizing s with
  | nil => exact ⟨s, .nil s, rfl, rfl⟩
  | cons i es ih =>
    obtain ⟨hi, htail⟩ := List.forall_mem_cons.1 hes
    rcases hi with rfl | ⟨d, rfl⟩
    · rw [List.count_cons_self] at bound ⊢
      have count := toNat_add_one s.ec (by omega)
      obtain ⟨t, path, ⟨ec, frame⟩⟩ :=
        ih { s with doe := true, dout := s.wb.getLsbD (31 - s.ec.toNat), ec := s.ec + 1#6 } htail hm
          (by simp only [count]; omega) busy
      refine ⟨t, .cons busy (exec_fall_midWrite s hm (by omega)) path, ?_, frame⟩
      rw [ec, count]
      omega
    · rw [List.count_cons_of_ne (by simp)] at bound ⊢
      obtain ⟨t, path, progress⟩ := ih s htail hm bound busy
      exact ⟨t, .cons busy (exec_rise_writing d s hm) path, progress⟩

/-- A whole write from EC = 0: thirty-one bits, and the `FALL` that drives the last. -/
theorem busyPath_wholeWrite (es : List Instr) (s : State) (hes : ∀ i ∈ es, IsEdge i) (hm : s.mode = .writing)
    (bits : s.ec.toNat + es.count .fall = 31) :
    BusyPath s (es ++ [.fall]) { s with doe := true, dout := s.wb.getLsbD 0, ec := 32#6, mode := .idle } := by
  obtain ⟨t, path, ⟨ec, frame⟩⟩ := busyPath_write es s hes hm bits.le
  have writing : t.mode = .writing := by rw [frame, hm]
  have last := exec_fall_lastBit t writing (BitVec.eq_of_toNat_eq (ec.trans bits))
  rw [show t.wb = s.wb by rw [frame]] at last
  refine path.append (.single (by simp [writing]) (last.trans ?_))
  rw [frame]

theorem isEdge_writeEdges (rs : List (List Level)) : ∀ i ∈ writeEdges rs, IsEdge i := by
  intro i hi
  obtain ⟨ds, -, hi⟩ := List.mem_flatMap.1 hi
  rcases List.mem_append.1 hi with hi | hi
  · obtain ⟨d, -, rfl⟩ := List.mem_map.1 hi
    exact .inr ⟨d, rfl⟩
  · exact .inl (List.mem_singleton.1 hi)

theorem count_fall_map_rise (ds : List Level) : (ds.map Instr.rise).count .fall = 0 :=
  List.count_eq_zero.2 fun h => by simp at h

theorem count_fall_writeEdges (rs : List (List Level)) : (writeEdges rs).count .fall = rs.length := by
  induction rs with
  | nil => rfl
  | cons ds rs ih =>
    rw [writeEdges, List.flatMap_cons, ← writeEdges, List.count_append, List.count_append, count_fall_map_rise, ih]
    simp [Nat.add_comm]

theorem writeEdges_append_single (rs : List (List Level)) (ds : List Level) :
    writeEdges (rs ++ [ds]) = (writeEdges rs ++ ds.map .rise) ++ [.fall] := by
  simp [writeEdges]

/-- The edges of a write end with the `FALL` of its last bit. -/
theorem writeEdges_split (rs : List (List Level)) (n : Nat) (len : rs.length = n + 1) :
    ∃ es, writeEdges rs = es ++ [.fall] ∧ (∀ i ∈ es, IsEdge i) ∧ es.count .fall = n := by
  obtain ⟨qs, ds, rfl⟩ : ∃ qs ds, rs = qs ++ [ds] :=
    ⟨rs.dropLast, rs.getLast (by rintro rfl; simp at len), (List.dropLast_append_getLast _).symm⟩
  have split := writeEdges_append_single qs ds
  refine ⟨_, split, fun i hi => isEdge_writeEdges (qs ++ [ds]) i ?_, ?_⟩
  · rw [split]
    exact List.mem_append_left _ hi
  · rw [List.count_append, count_fall_writeEdges, count_fall_map_rise]
    simpa using len

theorem busyPath_writeEdges (rs : List (List Level)) (s : State) (hm : s.mode = .writing) (hec : s.ec = 0#6)
    (len : rs.length = 32) :
    BusyPath s (writeEdges rs) { s with doe := true, dout := s.wb.getLsbD 0, ec := 32#6, mode := .idle } := by
  obtain ⟨es, split, edges, falls⟩ := writeEdges_split rs 31 len
  rw [split]
  exact busyPath_wholeWrite es s edges hm (by simp [hec, falls])

/-- After `n + 1` driver-phase edges the line is driven with `WB[31 - n]`. -/
theorem execAll_writeEdges_driven (rs : List (List Level)) (s : State) (hm : s.mode = .writing) (hec : s.ec = 0#6)
    (n : Nat) (hn : n < 32) (len : rs.length = n + 1) :
    ∃ t, execAll (writeEdges rs) s = .next t ∧ t.doe = true ∧ t.dout = s.wb.getLsbD (31 - n) := by
  obtain ⟨es, split, edges, falls⟩ := writeEdges_split rs n len
  obtain ⟨t, path, ⟨ec, frame⟩⟩ := busyPath_write es s edges hm (by simp [hec, falls]; omega)
  have writing : t.mode = .writing := by rw [frame, hm]
  have count : t.ec.toNat = n := by simpa [hec, falls] using ec
  have last := path.append (.single (by simp [writing]) (exec_fall_writing t writing))
  refine ⟨_, split ▸ last.execAll_eq, rfl, ?_⟩
  rw [writeBit_dout, driveBit_eq, count, frame]

/-- The bits of `rep4` repeat with period 8 (R7). -/
theorem getLsbD_rep4 (p : BitVec 8) (i : Nat) (h : i < 32) : (rep4 p).getLsbD i = p.getLsbD (i % 8) := by
  have expand : (rep4 p).getLsbD i = if i < 8 then p.getLsbD i else if i - 8 < 8 then p.getLsbD (i - 8)
      else if i - 8 - 8 < 8 then p.getLsbD (i - 8 - 8) else p.getLsbD (i - 8 - 8 - 8) := by
    simp only [rep4, BitVec.getLsbD_append]
  rw [expand]
  split_ifs <;> congr 1 <;> omega

/-- The bits of a byte four times are the byte's bits four times (R7, R42). -/
theorem writeBits_rep4 (p : BitVec 8) : writeBits (rep4 p) = (List.replicate 4 (byteBits p)).flatten := by
  have periodic : writeBits (rep4 p) = (List.range 32).map fun i => p.getLsbD (7 - i % 8) := by
    refine List.map_congr_left fun i hi => ?_
    have := List.mem_range.1 hi
    rw [getLsbD_rep4 p _ (by omega)]
    congr 1
    omega
  rw [periodic]
  rfl

/-- Settles O24: induction on the edges, and the bits of `rep4`. -/
theorem writeDrivesBufferMsbFirst : Obligations.WriteDrivesBufferMsbFirst := by
  refine ⟨?_, ?_, writeBits_rep4⟩
  · intro s hm _
    rw [exec_fall_writing s hm, writeBit_writing s hm]
  · intro rs s hm hec len
    refine ⟨(busyPath_writeEdges rs s hm hec len).execAll_eq, fun n hn => ?_⟩
    exact execAll_writeEdges_driven (rs.take (n + 1)) s hm hec n hn (by simp [len]; omega)

/-! ### The stalled clock (R107) -/

/-- Commands and edges that do nothing at this MODE leave a busy block as it is; the commands wait, in order. -/
theorem execAll_stalled (mode : BusMode) (busy : mode ≠ .idle) (idles : Instr → Prop)
    (off : ∀ i s, idles i → s.mode = mode → exec i s = .next s ∧ i.isCommand = false) (es : List Instr) (s : State)
    (hm : s.mode = mode) (hes : ∀ i ∈ es, i.isCommand = true ∨ idles i) :
    ∃ t, execAll es s = .next t ∧ SameBlock s t ∧
      t.presented = s.presented ++ (es.filter Instr.isCommand).map encode := by
  induction es generalizing s with
  | nil => exact ⟨s, rfl, by simp [SameBlock], by simp⟩
  | cons i es ih =>
    obtain ⟨hi, hes⟩ := List.forall_mem_cons.1 hes
    rcases hi with command | idle
    · obtain ⟨t, ht, same, presented⟩ := ih (hold i s) hm hes
      refine ⟨t, ?_, same, ?_⟩
      · rw [execAll_cons i es s _ (exec_command_busy i s command (hm ▸ busy)), ht]
      · rw [presented, List.filter_cons_of_pos command, hold_presented, List.map_cons, List.append_assoc,
          List.singleton_append]
    · obtain ⟨stays, event⟩ := off i s idle hm
      obtain ⟨t, ht, same, presented⟩ := ih s hm hes
      refine ⟨t, ?_, same, ?_⟩
      · rw [execAll_cons i es s _ stays, ht]
      · rw [presented, List.filter_cons_of_neg (by simp [event])]

/-- Settles O30: `FALL` is off phase while Reading, `RISE` while Writing, and no timer runs in either. -/
theorem stalledClockFreezesTransaction : Obligations.StalledClockFreezesTransaction := by
  refine ⟨?_, ?_, ?_⟩
  · intro es s hm hes
    refine execAll_stalled .reading (by simp) (· = .fall) ?_ es s hm hes
    rintro _ s rfl hm
    exact ⟨exec_fall_reading s hm, rfl⟩
  · intro es s hm hes
    refine execAll_stalled .writing (by simp) (fun i => ∃ d, i = .rise d) ?_ es s hm hes
    rintro _ s ⟨d, rfl⟩ hm
    exact ⟨exec_rise_writing d s hm, rfl⟩
  · intro s c hm
    have notSyncing : s.mode ≠ .syncing := by rcases hm with hm | hm <;> simp [hm]
    exact ⟨exec_tmo_not_settling c s fun h => notSyncing h.1, _, exec_reset s, rfl⟩

end Sys2Proof.Machine
end

section
/-!
PROOFS. Runs of writes (`30_encoding.md` R71): what a write shows on the wires, a key four times, and a held key that
goes out next (R68, R120).
-/

namespace Sys2Proof.Machine

open Safety

/-! ### Steps along a path -/

theorem eq_withStim (s : State) (ws : List Stimulus) (h : s.stim = ws) : s = { s with stim := ws } := by
  rw [← h]

theorem words_cons (i : Instr) (is : List Instr) (rest : List Stimulus) :
    words (i :: is) ++ rest = .word (encode i) :: (words is ++ rest) := rfl

/-- While busy, or with nobody waiting, an operation that stands in the trace runs (R68). -/
theorem step_encode (s t : State) (i : Instr) (ws : List Stimulus) (h : s.mode ≠ .idle ∨ s.presented = [])
    (hx : exec i s = .next t) :
    step { s with stim := .word (encode i) :: ws } = .next { t with stim := ws } := by
  rw [step_word { s with stim := .word (encode i) :: ws } i (encode i) ws h rfl (decode_encode i)]
  exact exec_withStim i s t ws hx

theorem taken_encode (s : State) (i : Instr) (ws : List Stimulus) (h : s.mode ≠ .idle ∨ s.presented = []) :
    taken { s with stim := .word (encode i) :: ws } = some i :=
  taken_word { s with stim := .word (encode i) :: ws } i (encode i) ws h rfl (decode_encode i)

/-! ### What a run shows -/

/-- So many steps lead from one state to the other, and the FALLs among them drive these bits in a write (R71). -/
structure Shows (n : Nat) (s : State) (bits : List Level) (t : State) : Prop where
  run : run n s = .next t
  captured : captured n s = bits
  wire : wireTrace n s = bits.map fun b => (true, b)

/-- The wire trace of a run is that of its parts, one after the other (R71). -/
theorem wireTrace_add (m n : Nat) (s t : State) (h : run m s = .next t) :
    wireTrace (m + n) s = wireTrace m s ++ wireTrace n t := by
  induction m generalizing s with
  | zero =>
    simp only [run, Host.Outcome.next.injEq] at h
    simp [h, wireTrace]
  | succ m ih =>
    rw [Nat.succ_add]
    simp only [run] at h
    simp only [wireTrace]
    cases hx : step s with
    | next u => rw [hx] at h; simp [ih u h]
    | fault r => rw [hx] at h; cases h
    | refused r => rw [hx] at h; cases h

theorem Shows.zero (s : State) : Shows 0 s [] s := ⟨rfl, rfl, rfl⟩

theorem Shows.trans {m n : Nat} {s t u : State} {as bs : List Level} (h : Shows m s as t) (k : Shows n t bs u) :
    Shows (m + n) s (as ++ bs) u where
  run := (run_add m n s t h.run).trans k.run
  captured := by rw [captured_add m n s t h.run, h.captured, k.captured]
  wire := by rw [wireTrace_add m n s t h.run, h.wire, k.wire, List.map_append]

/-- A step that takes no `FALL` shows nothing. -/
theorem Shows.silent {s t : State} (h : step s = .next t) (notFall : taken s ≠ some .fall) : Shows 1 s [] t where
  run := by simp [Machine.run, h]
  captured := by simp [Machine.captured, h, notFall]
  wire := by simp [wireTrace, h, notFall]

/-- A `FALL` of a write shows its bit. -/
theorem Shows.fall {s t : State} (h : step s = .next t) (fall : taken s = some .fall) (writing : s.mode = .writing)
    (driven : t.doe = true) : Shows 1 s [t.dout] t where
  run := by simp [Machine.run, h]
  captured := by simp [Machine.captured, h, fall, writing, State.ports]
  wire := by simp [wireTrace, h, fall, driven, State.ports]

/-! ### The bits that a write shows -/

/-- The bits that `k` driver-phase edges drive from EC = `n` on (R103). -/
def drivenFrom (wb : WriteWord) (n k : Nat) : List Level := (List.range' n k).map fun j => wb.getLsbD (31 - j)

theorem writeBits_eq_drivenFrom (wb : WriteWord) : writeBits wb = drivenFrom wb 0 32 := by
  rw [writeBits, drivenFrom, List.range_eq_range']

theorem drivenFrom_append (wb : WriteWord) (n j k : Nat) :
    drivenFrom wb n j ++ drivenFrom wb (n + j) k = drivenFrom wb n (j + k) := by
  rw [drivenFrom, drivenFrom, drivenFrom, ← List.map_append, List.range'_append_1]

/-- The edges of a write short of its thirty-second bit show the bits they drive: induction on the edges. -/
theorem shows_edges (es : List Instr) (s : State) (rest : List Stimulus) (hes : ∀ i ∈ es, IsEdge i)
    (hm : s.mode = .writing) (bound : s.ec.toNat + es.count .fall ≤ 31) :
    ∃ t, WriteProgress s (s.ec.toNat + es.count .fall) t ∧
      Shows es.length { s with stim := words es ++ rest } (drivenFrom s.wb s.ec.toNat (es.count .fall))
        { t with stim := rest } := by
  have busy : s.mode ≠ .idle := by simp [hm]
  induction es generalizing s with
  | nil => exact ⟨s, ⟨rfl, rfl⟩, .zero _⟩
  | cons i es ih =>
    obtain ⟨hi, htail⟩ := List.forall_mem_cons.1 hes
    have htaken := taken_encode s i (words es ++ rest) (.inl busy)
    rw [words_cons, List.length_cons, Nat.add_comm es.length 1]
    rcases hi with rfl | ⟨d, rfl⟩
    · rw [List.count_cons_self] at bound ⊢
      have count := toNat_add_one s.ec (by omega)
      obtain ⟨t, ⟨ec, frame⟩, shows⟩ :=
        ih { s with doe := true, dout := s.wb.getLsbD (31 - s.ec.toNat), ec := s.ec + 1#6 } htail hm
          (by simp only [count]; omega) busy
      refine ⟨t, ⟨?_, frame⟩, ?_⟩
      · rw [ec, count]
        omega
      · have head := step_encode s _ .fall (words es ++ rest) (.inl busy) (exec_fall_midWrite s hm (by omega))
        rw [Nat.add_comm (es.count .fall) 1, ← drivenFrom_append, ← count]
        exact (Shows.fall head htaken hm rfl).trans shows
    · rw [List.count_cons_of_ne (by simp)] at bound ⊢
      obtain ⟨t, progress, shows⟩ := ih s htail hm bound busy
      have head := step_encode s _ (.rise d) (words es ++ rest) (.inl busy) (exec_rise_writing d s hm)
      exact ⟨t, progress, (Shows.silent head (by simp [htaken])).trans shows⟩

/-- The rest of a write, its thirty-second bit included. -/
theorem shows_toTheLastBit (es : List Instr) (s : State) (rest : List Stimulus) (hes : ∀ i ∈ es, IsEdge i)
    (hm : s.mode = .writing) (bits : s.ec.toNat + es.count .fall = 31) :
    Shows (es.length + 1) { s with stim := words (es ++ [.fall]) ++ rest }
      (drivenFrom s.wb s.ec.toNat (es.count .fall + 1))
      { s with doe := true, dout := s.wb.getLsbD 0, ec := 32#6, mode := .idle, stim := rest } := by
  obtain ⟨t, ⟨ec, frame⟩, shows⟩ := shows_edges es s (words [.fall] ++ rest) hes hm bits.le
  have writing : t.mode = .writing := by rw [frame, hm]
  have busy : t.mode ≠ .idle := by simp [writing]
  have last := exec_fall_lastBit t writing (BitVec.eq_of_toNat_eq (ec.trans bits))
  rw [show t.wb = s.wb by rw [frame]] at last
  have lastShows := Shows.fall (step_encode t _ .fall rest (.inl busy) last) (taken_encode t .fall rest (.inl busy))
    writing rfl
  have whole := shows.trans lastShows
  rw [← drivenFrom_append, show words (es ++ [.fall]) ++ rest = words es ++ (words [.fall] ++ rest) by simp [words]]
  rw [frame] at whole
  simpa [drivenFrom, bits] using whole

/-- A whole write shows its buffer, `WB[31]` first (R71). -/
theorem shows_writeEdges (rs : List (List Level)) (s : State) (rest : List Stimulus) (hm : s.mode = .writing)
    (hec : s.ec = 0#6) (len : rs.length = 32) :
    Shows (writeEdges rs).length { s with stim := words (writeEdges rs) ++ rest } (writeBits s.wb)
      { s with doe := true, dout := s.wb.getLsbD 0, ec := 32#6, mode := .idle, stim := rest } := by
  obtain ⟨es, split, edges, falls⟩ := writeEdges_split rs 31 len
  have shows := shows_toTheLastBit es s rest edges hm (by simp [hec, falls])
  rw [split, List.length_append, writeBits_eq_drivenFrom]
  simpa [hec, falls] using shows

/-- Settles O25: the whole write, from the state whose trace it stands in. -/
theorem writeShowsOnTheWires : Obligations.WriteShowsOnTheWires := by
  intro rs s rest hm hec len hs
  have shows := shows_writeEdges rs s rest hm hec len
  rw [← eq_withStim s _ hs] at shows
  exact ⟨shows.run, shows.captured, by rw [shows.wire]⟩

/-! ### Keys -/

/-- The state after `WRKEY k` accepted under lock (R125). -/
def keyLoaded (k : KeyCode) (s : State) : State :=
  { s with wb := rep4 (payload s.cfg.keyInvert k), ec := 0#6, mode := .writing }

/-- The state after the last bit of a write (R103). -/
def writeDone (s : State) : State := { s with doe := true, dout := s.wb.getLsbD 0, ec := 32#6, mode := .idle }

theorem exec_wrkey_keyLoaded (k : KeyCode) (s : State) (idle : s.mode = .idle) (hn : s.needSync = false) :
    exec (.wrkey k) s = .next (keyLoaded k s) := exec_wrkey_locked k s idle hn

/-- A key that stands in the trace is accepted when nobody waits, and shows nothing. -/
theorem shows_key_inTrace (k : KeyCode) (s : State) (ws : List Stimulus) (idle : s.mode = .idle)
    (hn : s.needSync = false) (nobody : s.presented = []) :
    Shows 1 { s with stim := .word (encode (.wrkey k)) :: ws } [] { keyLoaded k s with stim := ws } :=
  .silent (step_encode s _ (.wrkey k) ws (.inr nobody) (exec_wrkey_keyLoaded k s idle hn))
    (by simp [taken_encode s (.wrkey k) ws (.inr nobody)])

/-- A key that waits alone is accepted at the first Idle state, before the stimulus written there (R68, R120). -/
theorem shows_key_onPort (k : KeyCode) (s : State) (idle : s.mode = .idle) (hn : s.needSync = false)
    (waiting : s.presented = [encode (.wrkey k)]) : Shows 1 s [] (keyLoaded k { s with presented := [] }) := by
  have decoded := decodeOnPort_encode (.wrkey k) rfl
  refine .silent ?_ ?_
  · rw [step_eq_runDecoded_onPort s _ idle waiting, decoded, runDecoded]
    exact exec_wrkey_keyLoaded k { s with presented := [] } idle hn
  · simp [taken, fetch_single s _ idle waiting, decoded, Except.toOption]

/-- A key that comes in the middle of a write is held, and shows nothing (R120). -/
theorem shows_key_held (k : KeyCode) (s : State) (ws : List Stimulus) (busy : s.mode ≠ .idle) :
    Shows 1 { s with stim := .word (encode (.wrkey k)) :: ws } [] { hold (.wrkey k) s with stim := ws } :=
  .silent (step_encode s _ (.wrkey k) ws (.inl busy) (exec_command_busy _ s rfl busy))
    (by simp [taken_encode s (.wrkey k) ws (.inl busy)])

/-- The write of a loaded key shows the payload byte four times (R127). -/
theorem shows_keyLoaded (k : KeyCode) (rs : List (List Level)) (s : State) (rest : List Stimulus)
    (len : rs.length = 32) :
    Shows (writeEdges rs).length { keyLoaded k s with stim := words (writeEdges rs) ++ rest }
      (List.replicate 4 (byteBits (payload s.cfg.keyInvert k))).flatten
      { writeDone (keyLoaded k s) with stim := rest } := by
  rw [← writeBits_rep4]
  exact shows_writeEdges rs (keyLoaded k s) rest rfl rfl len

/-- Thirty-two cycles are the edges of a write and the `RISE` after its last bit (R69). -/
theorem cycles_eq_writeEdges : cycles 32 = writeEdges ([] :: List.replicate 31 [false]) ++ [.rise false] := by
  decide

/-- Settles O26: the acceptance and the `RISE` after the last bit show nothing. -/
theorem keyGoesOutFourTimes : Obligations.KeyGoesOutFourTimes := by
  intro s k rest idle lock resync nobody hs
  have hn : s.needSync = false := (needSync_eq_false s).2 ⟨lock, resync⟩
  have accepted := shows_key_inTrace k s (words (cycles 32) ++ rest) idle hn nobody
  have write := shows_keyLoaded k ([] :: List.replicate 31 [false]) s (words [.rise false] ++ rest) rfl
  have after : Shows 1 { writeDone (keyLoaded k s) with stim := words [.rise false] ++ rest } []
      { idleEdge (writeDone (keyLoaded k s)) with stim := rest } :=
    .silent (step_encode (writeDone (keyLoaded k s)) _ (.rise false) rest (.inr nobody) (exec_rise_idle false _ rfl))
      (by simp [words, taken_encode (writeDone (keyLoaded k s)) (.rise false) rest (.inr nobody)])
  have split : words (cycles 32) ++ rest =
      words (writeEdges ([] :: List.replicate 31 [false])) ++ (words [.rise false] ++ rest) := by
    rw [cycles_eq_writeEdges]
    simp [words]
  rw [← split] at write
  have whole := (accepted.trans write).trans after
  have bits := whole.captured
  rw [List.nil_append, List.append_nil] at bits
  rw [eq_withStim s _ hs]
  exact bits

/-- The edges of a write, cut at any point before the last `FALL`. -/
theorem writeEdges_cut (rs : List (List Level)) (e f : List Instr) (len : rs.length = 32) (hef : e ++ f = writeEdges rs)
    (hf : f ≠ []) :
    ∃ body, f = body ++ [.fall] ∧ (∀ i ∈ e, IsEdge i) ∧ (∀ i ∈ body, IsEdge i) ∧
      e.count .fall + body.count .fall = 31 := by
  obtain ⟨es, split, edges, falls⟩ := writeEdges_split rs 31 len
  have ends : (e ++ f.dropLast) ++ [f.getLast hf] = es ++ [.fall] := by
    rw [List.append_assoc, List.dropLast_append_getLast hf, hef, split]
  obtain ⟨rfl, last⟩ := List.append_inj' ends rfl
  refine ⟨f.dropLast, ?_, fun i hi => edges i (List.mem_append_left _ hi),
    fun i hi => edges i (List.mem_append_right _ hi), by rw [← List.count_append, falls]⟩
  rw [← last, List.dropLast_append_getLast hf]

/-- A write with a key that is presented in its middle: the bits are the write's, and the key waits at its end. -/
theorem shows_write_aroundKey (k : KeyCode) (e body : List Instr) (s : State) (rest : List Stimulus)
    (he : ∀ i ∈ e, IsEdge i) (hbody : ∀ i ∈ body, IsEdge i) (falls : e.count .fall + body.count .fall = 31)
    (hm : s.mode = .writing) (hec : s.ec = 0#6) (nobody : s.presented = []) :
    Shows (e.length + 1 + (body.length + 1))
      { s with stim := words (e ++ .wrkey k :: (body ++ [.fall])) ++ rest } (writeBits s.wb)
      { writeDone s with presented := [encode (.wrkey k)], stim := rest } := by
  obtain ⟨t, ⟨ec, frame⟩, before⟩ := shows_edges e s (words (.wrkey k :: (body ++ [.fall])) ++ rest) he hm
    (by simp [hec]; omega)
  have count : t.ec.toNat = e.count .fall := by simpa [hec] using ec
  have writing : t.mode = .writing := by rw [frame, hm]
  have held := shows_key_held k t (words (body ++ [.fall]) ++ rest) (by simp [writing])
  have after := shows_toTheLastBit body (hold (.wrkey k) t) rest hbody writing (by simp [count, falls])
  have bits : writeBits s.wb = drivenFrom s.wb s.ec.toNat (e.count .fall) ++ [] ++
      drivenFrom (hold (.wrkey k) t).wb (hold (.wrkey k) t).ec.toNat (body.count .fall + 1) := by
    have joined := drivenFrom_append s.wb 0 (e.count .fall) (body.count .fall + 1)
    rw [Nat.zero_add, show e.count .fall + (body.count .fall + 1) = 32 by omega] at joined
    rw [hold_ec, hold_wb, count, show t.wb = s.wb by rw [frame], List.append_nil, hec, writeBits_eq_drivenFrom]
    exact joined.symm
  have ends : { writeDone s with presented := [encode (.wrkey k)], stim := rest } =
      { writeDone (hold (.wrkey k) t) with stim := rest } := by
    rw [frame]
    simp [writeDone, hold, nobody]
  rw [bits, ends, show words (e ++ .wrkey k :: (body ++ [.fall])) ++ rest =
    words e ++ (words (.wrkey k :: (body ++ [.fall])) ++ rest) by simp [words]]
  exact (before.trans held).trans after

/-- Settles O27: the first write around the held key, its acceptance at Idle, and the second write. -/
theorem heldKeyGoesOutNext : Obligations.HeldKeyGoesOutNext := by
  rintro s a b rest rs qs e f n p q idle lock resync nobody rfl rfl lenR lenQ hef hf hs rfl
  have hn : s.needSync = false := (needSync_eq_false s).2 ⟨lock, resync⟩
  obtain ⟨body, rfl, he, hbody, falls⟩ := writeEdges_cut rs e f lenR hef hf
  have acceptA := shows_key_inTrace a s
    (words (e ++ .wrkey b :: (body ++ [.fall])) ++ (words (writeEdges qs) ++ rest)) idle hn nobody
  have writeA := shows_write_aroundKey b e body (keyLoaded a s) (words (writeEdges qs) ++ rest) he hbody falls rfl rfl
    nobody
  have acceptB := shows_key_onPort b { writeDone (keyLoaded a s) with
    presented := [encode (.wrkey b)], stim := words (writeEdges qs) ++ rest } rfl hn rfl
  have writeB := shows_keyLoaded b qs { writeDone (keyLoaded a s) with presented := [] } rest lenQ
  have whole := ((acceptA.trans writeA).trans acceptB).trans writeB
  have start : s = { s with stim := .word (encode (.wrkey a)) ::
      (words (e ++ .wrkey b :: (body ++ [.fall])) ++ (words (writeEdges qs) ++ rest)) } :=
    eq_withStim s _ (by rw [hs]; simp [words])
  have bits : [] ++ writeBits (keyLoaded a s).wb ++ [] ++
      (List.replicate 4 (byteBits (payload s.cfg.keyInvert b))).flatten =
      (List.replicate 4 (byteBits (payload s.cfg.keyInvert a))).flatten ++
        (List.replicate 4 (byteBits (payload s.cfg.keyInvert b))).flatten := by
    rw [List.nil_append, List.append_nil, ← writeBits_rep4 (payload s.cfg.keyInvert a)]
    rfl
  have steps : (writeEdges rs).length + (writeEdges qs).length + 3 =
      1 + (e.length + 1 + (body.length + 1)) + 1 + (writeEdges qs).length := by
    rw [← hef]
    simp
    omega
  rw [← start] at whole
  rw [steps]
  exact ⟨whole.captured.trans bits, by rw [whole.wire, whole.captured], _, whole.run, rfl, rfl, rfl⟩

end Sys2Proof.Machine
end

section
/-!
PROOFS. The calls (`42_transaction_gate.md` R130 to R134): reads and writes that return, calls cut short (R176), the
lock after a returned synchronisation, and the encoder's sentinel (`43_keycode_encoder.md`).
-/

namespace Sys2Proof.Machine

open Safety

/-! ### The wait of a call -/

theorem callDone_iff (c : CallState) : callDone c = true ↔ c.own = .accepted ∧ c.machine.mode = .idle := by
  rw [callDone, Bool.and_eq_true, beq_iff_eq, cmdReady_iff]

theorem callWait_of_done (n : Nat) (c : CallState) (h : callDone c = true) : callWait n c = .next c := by
  cases n with
  | zero => rfl
  | succ n => simp [callWait, h]

/-- One step of a wait that is not over. -/
theorem callWait_step (n : Nat) (c : CallState) (t : State) (h : callDone c = false) (hs : step c.machine = .next t) :
    callWait (n + 1) c = callWait n { own := ownAfter c.own (fetch c.machine),
                                      resultHeld := resultHeldNext c.resultHeld c.machine, machine := t } := by
  simp [callWait, h, hs]

/-- A wait goes on where its first part ended. -/
theorem callWait_add (m n : Nat) (c d : CallState) (h : callWait m c = .next d) :
    callWait (m + n) c = callWait n d := by
  induction m generalizing c with
  | zero =>
    cases h
    rw [Nat.zero_add]
  | succ m ih =>
    rw [Nat.succ_add]
    rcases callWait_succ m c d h with ⟨done, rfl⟩ | ⟨notDone, t, hs, h⟩
    · rw [callWait_of_done _ _ done, callWait_of_done _ _ done]
    · rw [callWait_step _ c t notDone hs, ih _ h]

/-- What every step of an unfinished wait keeps holds wherever the wait ends. -/
theorem callWait_keeps (P : CallState → Prop)
    (keeps : ∀ c t, P c → callDone c = false → step c.machine = .next t →
      P { own := ownAfter c.own (fetch c.machine), resultHeld := resultHeldNext c.resultHeld c.machine, machine := t })
    (n : Nat) (c d : CallState) (hc : P c) (h : callWait n c = .next d) : P d := by
  induction n generalizing c with
  | zero =>
    cases h
    exact hc
  | succ n ih =>
    rcases callWait_succ n c d h with ⟨-, rfl⟩ | ⟨notDone, t, hs, h⟩
    · exact hc
    · exact ih _ (keeps c t hc notDone hs) h

/-! ### An accepted call -/

/-- A call whose command was accepted. -/
def acceptedCall (held : Bool) (s : State) : CallState := { own := .accepted, resultHeld := held, machine := s }

theorem callDone_acceptedCall_busy (held : Bool) (s : State) (busy : s.mode ≠ .idle) :
    callDone (acceptedCall held s) = false := by
  rw [← Bool.not_eq_true, callDone_iff]
  exact fun h => busy h.2

theorem callDone_acceptedCall_idle (held : Bool) (s : State) (idle : s.mode = .idle) :
    callDone (acceptedCall held s) = true := (callDone_iff _).2 ⟨rfl, idle⟩

/-- One operation of the trace in the wait of an accepted call. -/
theorem callWait_encode (n : Nat) (held : Bool) (s t : State) (i : Instr) (ws : List Stimulus) (busy : s.mode ≠ .idle)
    (h : exec i s = .next t) :
    callWait (n + 1) (acceptedCall held { s with stim := .word (encode i) :: ws }) =
      callWait n (acceptedCall (resultHeldAfter held i { s with stim := .word (encode i) :: ws })
        { t with stim := ws }) := by
  have waits := callDone_acceptedCall_busy held { s with stim := .word (encode i) :: ws } busy
  rw [callWait_step n _ _ waits (step_encode s t i ws (.inl busy) h)]
  simp [acceptedCall, ownAfter, resultHeldNext, taken_encode s i ws (.inl busy)]

/-- The wait of an accepted call along a path of a busy block. -/
theorem callWait_path (is : List Instr) (n : Nat) (held : Bool) (s t : State) (ws : List Stimulus)
    (path : BusyPath s is t) :
    ∃ held', callWait (is.length + n) (acceptedCall held { s with stim := words is ++ ws }) =
      callWait n (acceptedCall held' { t with stim := ws }) := by
  induction path generalizing held with
  | nil => exact ⟨held, by simp [words]⟩
  | @cons s t u i is busy head _ ih =>
    obtain ⟨held', hrest⟩ := ih (resultHeldAfter held i { s with stim := words (i :: is) ++ ws })
    refine ⟨held', ?_⟩
    rw [List.length_cons, Nat.succ_add, words_cons, callWait_encode _ held s t i _ busy head]
    exact hrest

/-- A call made in Idle with nobody waiting is accepted in its first step. -/
theorem callRun_accept (enc : Char → KeyCode) (c : Call) (n : Nat) (s t : State) (idle : s.mode = .idle)
    (nobody : s.presented = []) (h : exec (callCommand enc c) s = .next t) :
    ∃ held, callRun enc c (n + 1) s = callWait n (acceptedCall held t) := by
  have ready : (callStart enc c s).machine.mode = .idle := idle
  have command : (callCommand enc c).isCommand = true := by cases c <;> rfl
  have alone : (callStart enc c s).machine.presented = [encode (callCommand enc c)] := by simp [callStart, nobody]
  have taken_back : { (callStart enc c s).machine with presented := [] } = s := by
    simp only [callStart, ← nobody]
  have hs : step (callStart enc c s).machine = .next t := by
    rw [step_eq_runDecoded_onPort (callStart enc c s).machine _ ready alone, decodeOnPort_encode _ command, runDecoded,
      taken_back, h]
  have waits : callDone (callStart enc c s) = false := by simp [callDone, callStart]
  have own : ownAfter (callStart enc c s).own (fetch (callStart enc c s).machine) = .accepted := by
    rw [fetch_single (callStart enc c s).machine _ ready alone]
    simp [callStart, nobody, ownAfter, ownAfterRemoval]
  refine ⟨resultHeldNext false (callStart enc c s).machine, ?_⟩
  rw [callRun, callWait_step n _ t waits hs, own]
  rfl

/-! ### Reads -/

theorem packet_eq_readEdges (m : StatusWord) : packet m = readEdges ((statusBits m).map fun d => (1, d)) :=
  flatMap_cycle (statusBits m)

theorem length_flatMap_cycle (ds : List Level) : (ds.flatMap cycle).length = 2 * ds.length := by
  induction ds with
  | nil => rfl
  | cons d ds ih =>
    rw [List.flatMap_cons, List.length_append, ih, List.length_cons]
    simp [cycle]
    omega

theorem length_packet (m : StatusWord) : (packet m).length = 32 := by
  rw [packet, length_flatMap_cycle, length_statusBits]

/-- The wait of a read over a packet: it is over at the sixteenth sample, with the packet's mask a result in SR. -/
theorem callWait_packet (m : StatusWord) (n : Nat) (held : Bool) (s : State) (rest : List Stimulus)
    (hm : s.mode = .reading) (hec : s.ec = 0#6) :
    callWait (32 + n) (acceptedCall held { s with stim := words (packet m) ++ rest }) =
      .next (acceptedCall true { s with sr := m, ec := 16#6, doe := false, mode := .idle, stim := rest }) := by
  obtain ⟨es, d, t, split, path, reading, count, last⟩ :=
    busyPath_readEdges ((statusBits m).map fun d => (1, d)) s (by simp [length_statusBits]) hm hec
  simp only [List.map_map, Function.comp_def, List.map_id', foldl_shiftIn_statusBits] at last
  obtain ⟨held', along⟩ := callWait_path es (n + 1) held s t (.word (encode (.rise d)) :: rest) path
  have length : es.length + 1 = 32 := by
    rw [← length_packet m, packet_eq_readEdges, split, List.length_append, List.length_singleton]
  have stimuli : words (packet m) ++ rest = words es ++ .word (encode (.rise d)) :: rest := by
    rw [packet_eq_readEdges, split]
    simp [words]
  have sixteenth : resultHeldAfter held' (.rise d) { t with stim := .word (encode (.rise d)) :: rest } = true := by
    simp [resultHeldAfter, reading, count, nextCount]
  rw [stimuli, show 32 + n = es.length + (n + 1) by omega, along,
    callWait_encode n held' t _ (.rise d) rest (by simp [reading]) last, sixteenth]
  exact callWait_of_done n _ (callDone_acceptedCall_idle true _ rfl)

/-- What a finished read hands over (R132). -/
theorem callResult_readStatus (s : State) (idle : s.mode = .idle) :
    callResult .readStatus (acceptedCall true s) = some s.sr := by
  rw [callResult, callDone_acceptedCall_idle true s idle]
  rfl

/-- The state after `RDST` accepted under lock (R124). -/
def readStarted (s : State) : State := { s with ec := 0#6, sr := 0#16, mode := .reading }

/-- Settles O48: the acceptance and the packet's thirty-two stimuli. -/
theorem alignedReadStatusReturnsTheMask : Obligations.AlignedReadStatusReturnsTheMask := by
  intro enc s m rest n idle lock resync nobody hs
  have hn : s.needSync = false := (needSync_eq_false s).2 ⟨lock, resync⟩
  obtain ⟨held, accepted⟩ := callRun_accept enc .readStatus (32 + n) s (readStarted s) idle nobody
    (exec_rdst_locked s idle hn)
  rw [eq_withStim (readStarted s) _ hs, callWait_packet m n held (readStarted s) rest rfl rfl] at accepted
  rw [show 33 + n = 32 + n + 1 by omega]
  exact ⟨_, accepted, callResult_readStatus _ rfl, rfl, by simp [complete, acceptedCall, readStarted, nobody]⟩

/-! ### Commands that are held meanwhile -/

/-- Commands along a busy block join the waiting words, in order (R120). -/
theorem busyPath_commands (js : List Instr) (s : State) (busy : s.mode ≠ .idle) (hjs : ∀ j ∈ js, j.isCommand = true) :
    BusyPath s js { s with presented := s.presented ++ js.map encode } := by
  induction js generalizing s with
  | nil => simpa using BusyPath.nil s
  | cons j js ih =>
    obtain ⟨hj, htail⟩ := List.forall_mem_cons.1 hjs
    have tail := ih (hold j s) busy htail
    simp only [hold, List.append_assoc, List.singleton_append] at tail
    exact .cons busy (exec_command_busy j s hj busy) tail

/-- Settles O49: the other callers' commands are held, and the read goes on behind them. -/
theorem heldCommandsDoNotDelayTheReturn : Obligations.HeldCommandsDoNotDelayTheReturn := by
  intro enc s m js rest n idle lock resync nobody hjs hs
  have hn : s.needSync = false := (needSync_eq_false s).2 ⟨lock, resync⟩
  obtain ⟨held, accepted⟩ := callRun_accept enc .readStatus (js.length + (32 + n)) s (readStarted s) idle nobody
    (exec_rdst_locked s idle hn)
  have others := busyPath_commands js (readStarted s) (by simp [readStarted]) hjs
  obtain ⟨held', along⟩ := callWait_path js (32 + n) held _ _ (words (packet m) ++ rest) others
  have stimuli : (readStarted s).stim = words js ++ (words (packet m) ++ rest) := by
    simp [readStarted, hs, words]
  rw [eq_withStim (readStarted s) _ stimuli, along] at accepted
  rw [callWait_packet m n held' { readStarted s with presented := (readStarted s).presented ++ js.map encode } rest rfl
    rfl] at accepted
  rw [show 1 + js.length + 32 + n = js.length + (32 + n) + 1 by omega]
  exact ⟨_, accepted, callDone_acceptedCall_idle true _ rfl, callResult_readStatus _ rfl,
    by simp [acceptedCall, readStarted, nobody], rfl⟩

/-! ### Synchronising first -/

/-- Edges while an attempt settles are dropped (R81). -/
theorem busyPath_dropped (es : List Instr) (s : State) (hm : s.mode = .syncing) (hs : s.sph = .settling)
    (hes : ∀ i ∈ es, IsEdge i) : BusyPath s es s := by
  induction es with
  | nil => exact .nil s
  | cons i es ih =>
    obtain ⟨hi, htail⟩ := List.forall_mem_cons.1 hes
    refine .cons (by simp [hm]) ?_ (ih htail)
    rcases hi with rfl | ⟨d, rfl⟩
    · rw [exec_fall_syncing s hm, syncEdge_dropped .falling s (.inl (by simp [hs]))]
    · rw [exec_rise_syncing d s hm, syncEdge_dropped .rising s (.inl (by simp [hs]))]

/-- A failed attempt leaves the block as it was, armed again (R82). -/
theorem busyPath_missedAttempt (es : List Instr) (s : State) (hm : s.mode = .syncing) (ha : s.sph = .armed)
    (hes : ∀ i ∈ es, IsEdge i) :
    BusyPath s (edgeStimulus s.cfg.syncEdge :: es ++ [.tmo (!s.cfg.syncLevel)]) s := by
  have busy : s.mode ≠ .idle := by simp [hm]
  have dropped := busyPath_dropped es { s with sph := .settling } hm rfl hes
  have rearmed : exec (.tmo (!s.cfg.syncLevel)) { s with sph := .settling } = .next s :=
    (exec_tmo_rearms _ { s with sph := .settling } hm rfl (by simp)).trans (by rw [← ha])
  exact (BusyPath.cons busy (exec_edgeStimulus_armed s hm ha) dropped).append (.single busy rearmed)

theorem busyPath_missedAttempts (es : List (List Instr)) (s : State) (hm : s.mode = .syncing) (ha : s.sph = .armed)
    (hes : ∀ l ∈ es, ∀ i ∈ l, IsEdge i) : BusyPath s (missedAttempts s.cfg es) s := by
  induction es with
  | nil => exact .nil s
  | cons l es ih =>
    obtain ⟨hl, htail⟩ := List.forall_mem_cons.1 hes
    exact (busyPath_missedAttempt l s hm ha hl).append (ih htail)

/-- The lock sequence takes an armed block to what is pending (R69, R82). -/
theorem busyPath_lockSeq (s : State) (hm : s.mode = .syncing) (ha : s.sph = .armed) :
    BusyPath s (lockSeq s.cfg) { s with lock := true, sph := .armed, mode := lockedMode s.pend, pend := none } :=
  have busy : s.mode ≠ .idle := by simp [hm]
  .cons busy (exec_edgeStimulus_armed s hm ha) (.single busy (exec_tmo_locks _ { s with sph := .settling } hm rfl rfl))

/-- The wait of a call that synchronises first: after any failed attempts and the lock sequence it is at the
transaction that is pending. -/
theorem callWait_synchronised (es : List (List Instr)) (n : Nat) (held : Bool) (s : State) (rest : List Stimulus)
    (hm : s.mode = .syncing) (ha : s.sph = .armed) (hes : ∀ l ∈ es, ∀ i ∈ l, IsEdge i) :
    ∃ held', callWait ((missedAttempts s.cfg es).length + 2 + n)
        (acceptedCall held { s with stim := words (missedAttempts s.cfg es ++ lockSeq s.cfg) ++ rest }) =
      callWait n (acceptedCall held'
        { s with lock := true, sph := .armed, mode := lockedMode s.pend, pend := none, stim := rest }) := by
  have path := (busyPath_missedAttempts es s hm ha hes).append (busyPath_lockSeq s hm ha)
  obtain ⟨held', along⟩ := callWait_path _ n held s _ rest path
  rw [List.length_append] at along
  exact ⟨held', along⟩

/-- The state after `RDST` accepted when a synchronisation is needed (R124). -/
def readPending (s : State) : State :=
  { s with ec := 0#6, sr := 0#16, lock := false, pend := some .read, sph := .armed, mode := .syncing }

/-- Settles O50: the synchronisation hands over to the read, which takes the packet. -/
theorem synchronisingReadStatusReturnsTheMask : Obligations.SynchronisingReadStatusReturnsTheMask := by
  intro enc s m es rest n idle needs nobody hes hs
  have hn : s.needSync = true := (needSync_eq_true s).2 needs
  obtain ⟨held, accepted⟩ := callRun_accept enc .readStatus ((missedAttempts s.cfg es).length + 2 + (32 + n)) s
    (readPending s) idle nobody (exec_rdst_unlocked s idle hn)
  obtain ⟨held', locked⟩ := callWait_synchronised es (32 + n) held (readPending s) (words (packet m) ++ rest) rfl rfl
    hes
  have stimuli : (readPending s).stim =
      words (missedAttempts s.cfg es ++ lockSeq s.cfg) ++ (words (packet m) ++ rest) := by
    simp [readPending, hs, words]
  rw [eq_withStim (readPending s) _ stimuli] at accepted
  have returned := callWait_packet m n held' { readPending s with lock := true, mode := .reading, pend := none } rest
    rfl rfl
  rw [show 1 + (missedAttempts s.cfg es).length + 2 + 32 + n =
    (missedAttempts s.cfg es).length + 2 + (32 + n) + 1 by omega]
  exact ⟨_, (accepted.trans locked).trans returned, callResult_readStatus _ rfl, rfl, rfl,
    by simp [complete, acceptedCall, readPending, nobody]⟩

/-! ### Writes -/

/-- The wait of a write over thirty-two cycles: it is over at the thirty-second `FALL`, before the last `RISE`. -/
theorem callWait_cycles (n : Nat) (held : Bool) (s : State) (rest : List Stimulus) (hm : s.mode = .writing)
    (hec : s.ec = 0#6) :
    ∃ held', callWait (63 + n) (acceptedCall held { s with stim := words (cycles 32) ++ rest }) =
      .next (acceptedCall held' { writeDone s with stim := .word (encode (.rise false)) :: rest }) := by
  have path := busyPath_writeEdges ([] :: List.replicate 31 [false]) s hm hec rfl
  obtain ⟨held', along⟩ := callWait_path _ n held s _ (.word (encode (.rise false)) :: rest) path
  have stimuli : words (cycles 32) ++ rest =
      words (writeEdges ([] :: List.replicate 31 [false])) ++ .word (encode (.rise false)) :: rest := by
    rw [cycles_eq_writeEdges]
    simp [words]
  refine ⟨held', ?_⟩
  rw [stimuli]
  exact along.trans (callWait_of_done n _ (callDone_acceptedCall_idle held' _ rfl))

/-- The last bit of a key's write is bit 0 of its payload byte (R127). -/
theorem writeDone_keyLoaded_dout (k : KeyCode) (s : State) :
    (writeDone (keyLoaded k s)).dout = (payload s.cfg.keyInvert k).getLsbD 0 :=
  getLsbD_rep4 _ 0 (by omega)

/-- Settles O52: the acceptance and the sixty-three stimuli up to the last `FALL`. -/
theorem writeKeyReturnsAtTheLastBit : Obligations.WriteKeyReturnsAtTheLastBit := by
  intro enc s c rest n idle lock resync nobody hs
  have hn : s.needSync = false := (needSync_eq_false s).2 ⟨lock, resync⟩
  obtain ⟨held, accepted⟩ := callRun_accept enc (.writeKey c) (63 + n) s (keyLoaded (enc c) s) idle nobody
    (exec_wrkey_keyLoaded (enc c) s idle hn)
  obtain ⟨held', returned⟩ := callWait_cycles n held (keyLoaded (enc c) s) rest rfl rfl
  rw [eq_withStim (keyLoaded (enc c) s) _ hs, returned] at accepted
  rw [show 64 + n = 63 + n + 1 by omega]
  exact ⟨_, accepted, callDone_acceptedCall_idle held' _ rfl,
    by simp [complete, acceptedCall, writeDone, keyLoaded, nobody],
    rfl, rfl, writeDone_keyLoaded_dout (enc c) s, rfl, rfl⟩

/-- The state after `WRKEY k` accepted when a synchronisation is needed (R125). -/
def writePending (k : KeyCode) (s : State) : State :=
  { s with wb := rep4 (payload s.cfg.keyInvert k), ec := 0#6, lock := false, pend := some .write, sph := .armed,
           mode := .syncing }

/-- Settles O53: the synchronisation hands over to the write, which takes the cycles. -/
theorem synchronisingWriteKeyReturnsAtTheLastBit : Obligations.SynchronisingWriteKeyReturnsAtTheLastBit := by
  intro enc s c es rest n idle needs nobody hes hs
  have hn : s.needSync = true := (needSync_eq_true s).2 needs
  obtain ⟨held, accepted⟩ := callRun_accept enc (.writeKey c) ((missedAttempts s.cfg es).length + 2 + (63 + n)) s
    (writePending (enc c) s) idle nobody (exec_wrkey_unlocked (enc c) s idle hn)
  obtain ⟨held', locked⟩ := callWait_synchronised es (63 + n) held (writePending (enc c) s)
    (words (cycles 32) ++ rest) rfl rfl hes
  have stimuli : (writePending (enc c) s).stim =
      words (missedAttempts s.cfg es ++ lockSeq s.cfg) ++ (words (cycles 32) ++ rest) := by
    simp [writePending, hs, words]
  rw [eq_withStim (writePending (enc c) s) _ stimuli] at accepted
  obtain ⟨held'', returned⟩ := callWait_cycles n held'
    { writePending (enc c) s with lock := true, mode := .writing, pend := none } rest rfl rfl
  rw [show 1 + (missedAttempts s.cfg es).length + 2 + 63 + n =
    (missedAttempts s.cfg es).length + 2 + (63 + n) + 1 by omega]
  exact ⟨_, (accepted.trans locked).trans returned, callDone_acceptedCall_idle held'' _ rfl,
    by simp [complete, acceptedCall, writeDone, writePending, nobody], rfl, rfl, rfl,
    writeDone_keyLoaded_dout (enc c) s, rfl, rfl⟩

/-! ### Calls cut short (R176) -/

theorem fetch_withdraw (s : State) (k : Nat) (ws : List Stimulus) (h : s.mode ≠ .idle ∨ s.presented = [])
    (hs : s.stim = .withdraw k :: ws) : fetch s = .withdrawn k (withdraw k { s with stim := ws }) := by
  rw [fetch_eq_fetchTrace s h, fetchTrace, hs]

/-- A call whose command was taken back never returns. -/
theorem callWait_withdrawn (n : Nat) (c d : CallState) (hc : c.own = .withdrawn) (h : callWait n c = .next d) :
    d.own = .withdrawn :=
  callWait_keeps (fun c => c.own = .withdrawn) (fun c t hc _ _ => by simp [hc, ownAfter]) n c d hc h

/-- A `RESET` ends the wait of an accepted call, and what SR holds is no result. -/
theorem callWait_reset (n : Nat) (held : Bool) (s : State) (rest : List Stimulus) (busy : s.mode ≠ .idle) :
    ∃ t, callWait (n + 1) (acceptedCall held { s with stim := .word (encode .reset) :: rest }) =
      .next (acceptedCall false t) ∧ t.mode = .idle ∧ t.stim = rest :=
  ⟨_, (callWait_encode n held s _ .reset rest busy (exec_reset s)).trans
    (callWait_of_done n _ (callDone_acceptedCall_idle _ _ rfl)), rfl, rfl⟩

/-- Without a result nothing is handed over (R176). -/
theorem callResult_of_not_held (c : Call) (s : State) : callResult c (acceptedCall false s) = none := by
  cases c <;> simp [callResult, acceptedCall]

/-- Of edges, those that are no `FALL` are the samples. -/
theorem length_filter_ne_fall (es : List Instr) (hes : ∀ i ∈ es, IsEdge i) :
    (es.filter fun i => i ≠ .fall).length = (samples es).length := by
  induction es with
  | nil => rfl
  | cons i es ih =>
    obtain ⟨hi, htail⟩ := List.forall_mem_cons.1 hes
    rcases hi with rfl | ⟨d, rfl⟩
    · simpa using ih htail
    · simpa using ih htail

/-- Settles O51: a withdrawn command stays so; a `RESET` makes the block Idle and the result void. -/
theorem cutShortCallsReturnNoResult : Obligations.CutShortCallsReturnNoResult := by
  refine ⟨?_, ?_, ?_⟩
  · intro enc c m n s u t p rest hu own busy hs ht
    have notDone : callDone u = false := by simp [callDone, own]
    rw [callRun, Nat.add_assoc, callWait_add m (1 + n) _ u hu, Nat.add_comm 1 n,
      callWait_step n u _ notDone (step_withdraw u.machine p rest (.inl busy) hs)] at ht
    have gone : t.own = .withdrawn := by
      refine callWait_withdrawn n _ t ?_ ht
      rw [fetch_withdraw u.machine p rest (.inl busy) hs, own]
      simp [ownAfter, ownAfterRemoval]
    exact ⟨gone, by simp [callDone, gone]⟩
  · intro enc c m n s u rest hu own busy hs
    have call : u = acceptedCall u.resultHeld { u.machine with stim := .word (encode .reset) :: rest } := by
      rw [← hs, acceptedCall, ← own]
    obtain ⟨t, ended, idle, stim⟩ := callWait_reset n u.resultHeld u.machine rest busy
    rw [← call] at ended
    refine ⟨_, ?_, callDone_acceptedCall_idle false t idle, callResult_of_not_held c t, stim⟩
    rw [callRun, Nat.add_assoc, callWait_add m (1 + n) _ u hu, Nat.add_comm 1 n, ended]
  · intro enc s n rest es idle lock resync nobody hes few hs
    have hn : s.needSync = false := (needSync_eq_false s).2 ⟨lock, resync⟩
    obtain ⟨held, accepted⟩ := callRun_accept enc .readStatus (es.length + (n + 1)) s (readStarted s) idle nobody
      (exec_rdst_locked s idle hn)
    rw [length_filter_ne_fall es hes] at few
    obtain ⟨u, path, ⟨-, -, frame⟩⟩ := busyPath_read es (readStarted s) hes rfl (by simp [readStarted]; omega)
    have busy : u.mode ≠ .idle := by
      rw [frame]
      simp [readStarted]
    obtain ⟨held', along⟩ := callWait_path es (n + 1) held _ u (.word (encode .reset) :: rest) path
    obtain ⟨t, ended, idle, stim⟩ := callWait_reset n held' u rest busy
    have stimuli : (readStarted s).stim = words es ++ .word (encode .reset) :: rest := by
      simp [readStarted, hs, words]
    rw [eq_withStim (readStarted s) _ stimuli, along, ended] at accepted
    rw [show 1 + es.length + 1 + n = es.length + (n + 1) + 1 by omega]
    exact ⟨_, accepted, callDone_acceptedCall_idle false t idle, callResult_of_not_held _ t, stim⟩

/-! ### A returned synchronisation (R130, R133) -/

/-- Without `RESET` a synchronisation with nothing pending goes on, or ends Idle with the lock (R82). -/
theorem exec_syncing_alone (i : Instr) (s t : State) (hm : s.mode = .syncing) (alone : s.pend = none) (hi : i ≠ .reset)
    (h : exec i s = .next t) : (t.mode = .syncing ∧ t.pend = none) ∨ (t.mode = .idle ∧ t.lock = true) := by
  rcases exec_syncing_eq_next i s t hm h with rfl | ⟨d, -, rfl⟩ | ⟨-, rfl⟩ | ⟨c, -, -, rfl⟩ | rfl
  · exact .inl ⟨hm, alone⟩
  · exact .inl (by simp [hm, alone])
  · exact .inl (by simp [hm, alone])
  · rcases settleExpire_cases c s with ⟨-, ht⟩ | ⟨-, ht⟩ <;> rw [ht]
    · exact .inr ⟨by rw [alone]; rfl, rfl⟩
    · exact .inl ⟨hm, alone⟩
  · exact absurd rfl hi

/-- Where the command of a call stands: at its place among the waiting words, or in a synchronisation of its own that
still runs or has locked. -/
def CommandStands (cmd : Instr) (s : State) : OwnCommand → Prop
  | .waiting p => s.presented[p]? = some (encode cmd)
  | .accepted => (s.mode = .syncing ∧ s.pend = none) ∨ (s.mode = .idle ∧ s.lock = true)
  | .withdrawn => True

/-- A word's place after another has left. -/
theorem getElem?_eraseIdx_shift (ws : List StimWord) (k p : Nat) (h : k ≠ p) :
    (ws.eraseIdx k)[if k < p then p - 1 else p]? = ws[p]? := by
  rw [List.getElem?_eraseIdx]
  split_ifs with before
  · omega
  · rw [Nat.sub_add_cancel (by omega)]
  · rfl
  · omega

/-- When a waiting word leaves, the call's own stands at its new place, or it is the one that left. -/
theorem commandStands_afterRemoval (cmd : Instr) (s t : State) (gone : OwnCommand) (k p : Nat)
    (h : CommandStands cmd s (.waiting p)) (ht : t.presented = s.presented.eraseIdx k)
    (hgone : k = p → CommandStands cmd t gone) : CommandStands cmd t (ownAfterRemoval gone k p) := by
  unfold ownAfterRemoval
  split
  next hk => exact hgone hk
  next hk =>
    change t.presented[_]? = _
    rw [ht, getElem?_eraseIdx_shift _ k p hk]
    exact h

/-- What the command of `init()` and of `synchronize()` does when it is accepted. -/
theorem exec_synchronisation_idle (cmd : Instr) (s t : State) (hcmd : cmd = .init ∨ cmd = .sync) (idle : s.mode = .idle)
    (h : exec cmd s = .next t) : t.mode = .syncing ∧ t.pend = none := by
  rcases hcmd with rfl | rfl
  · rw [exec_init_idle s idle] at h
    cases h
    exact ⟨rfl, rfl⟩
  · rw [exec_sync_idle s idle] at h
    cases h
    exact ⟨rfl, rfl⟩

/-- A step takes stimuli from the trace and adds none. -/
theorem step_stim_subset (s t : State) (h : step s = .next t) : t.stim ⊆ s.stim := by
  rcases step_eq_next s t h with ⟨-, rfl⟩ | ⟨k, ws, hs, rfl⟩ | ⟨w, ws, i, hs, -, hx⟩ | ⟨-, k, w, ws, n, i, -, -, hx⟩
  · exact List.Subset.refl _
  · rw [hs]
    exact List.subset_cons_self _ _
  · rw [(exec_cfg_stim i _ t hx).2, hs]
    exact List.subset_cons_self _ _
  · rw [(exec_cfg_stim i _ t hx).2]
    exact List.Subset.refl _

/-- While the command waits, a step keeps track of it, and accepts it into a synchronisation of its own. -/
theorem commandStands_waiting (cmd : Instr) (s t : State) (p : Nat) (hcmd : cmd = .init ∨ cmd = .sync)
    (h : CommandStands cmd s (.waiting p)) (hs : step s = .next t) :
    CommandStands cmd t (ownAfter (.waiting p) (fetch s)) := by
  have waiting : s.presented[p]? = some (encode cmd) := h
  rcases fetch_cases s with ⟨-, hf⟩ | ⟨idle, k, w, ws, n, hc, hf⟩
  · rcases fetchTrace_cases s with ⟨hw, ht⟩ | ⟨w, ws, hw, ht⟩ | ⟨k, ws, hw, ht⟩ <;> rw [hf, ht, ownAfter] <;>
      rw [step, hf, ht] at hs
    · cases hs
      exact h
    · cases hd : decode w with
      | ok i =>
        have hx : exec i { s with stim := ws } = .next t := by simpa [runDecoded, hd] using hs
        rcases exec_presented_cases i _ t hx with kept | ⟨-, -, added⟩
        · exact (congrArg (·[p]?) kept).trans waiting
        · obtain ⟨hp, -⟩ := List.getElem?_eq_some_iff.1 waiting
          exact (congrArg (·[p]?) added).trans ((List.getElem?_append_left hp).trans waiting)
      | error r => simp [runDecoded, hd] at hs
    · cases hs
      exact commandStands_afterRemoval cmd s _ .withdrawn k p h rfl fun _ => trivial
  · obtain ⟨chosen, others⟩ := chooseCaller_eq_some _ _ _ _ _ _ hc
    rw [hf, ownAfter]
    rw [step, hf] at hs
    cases hd : decodeOnPort w with
    | ok i =>
      have hx : exec i { s with presented := ws, draws := n } = .next t := by simpa [runDecoded, hd] using hs
      have presented : t.presented = s.presented.eraseIdx k := by
        rcases exec_presented_cases i _ t hx with kept | ⟨-, busy, -⟩
        · exact kept.trans others
        · exact absurd idle busy
      refine commandStands_afterRemoval cmd s t .accepted k p h presented ?_
      rintro rfl
      obtain rfl : w = encode cmd := Option.some.inj (chosen.symm.trans waiting)
      have command : cmd.isCommand = true := by rcases hcmd with rfl | rfl <;> rfl
      obtain rfl : cmd = i := Except.ok.inj ((decodeOnPort_encode cmd command).symm.trans hd)
      exact .inl (exec_synchronisation_idle cmd { s with presented := ws, draws := n } t hcmd idle hx)
    | error r => simp [runDecoded, hd] at hs

/-- Once it is accepted, the synchronisation runs until it locks. -/
theorem commandStands_accepted (cmd : Instr) (s t : State) (noReset : .word (encode .reset) ∉ s.stim)
    (h : CommandStands cmd s .accepted) (busy : s.mode ≠ .idle) (hs : step s = .next t) :
    CommandStands cmd t .accepted := by
  obtain ⟨syncing, alone⟩ := h.resolve_right fun h => busy h.1
  rcases step_eq_next s t hs with ⟨-, rfl⟩ | ⟨k, ws, -, rfl⟩ | ⟨w, ws, i, hw, hd, hx⟩ | ⟨idle, -⟩
  · exact h
  · exact .inl ⟨syncing, alone⟩
  · refine exec_syncing_alone i { s with stim := ws } t syncing alone ?_ hx
    rintro rfl
    rw [hw, encode_of_decode w _ hd] at noReset
    simp at noReset
  · exact absurd idle busy

/-- What a call of `init()` or `synchronize()` keeps from its beginning. -/
structure SyncCallInv (cmd : Instr) (c : CallState) : Prop where
  noReset : .word (encode .reset) ∉ c.machine.stim
  stands : CommandStands cmd c.machine c.own

theorem syncCallInv_step (cmd : Instr) (hcmd : cmd = .init ∨ cmd = .sync) (c : CallState) (t : State)
    (inv : SyncCallInv cmd c) (notDone : callDone c = false) (hs : step c.machine = .next t) :
    SyncCallInv cmd { own := ownAfter c.own (fetch c.machine), resultHeld := resultHeldNext c.resultHeld c.machine,
                      machine := t } := by
  obtain ⟨noReset, stands⟩ := inv
  refine ⟨fun h => noReset (step_stim_subset _ t hs h), ?_⟩
  cases own : c.own with
  | waiting p =>
    rw [own] at stands
    exact commandStands_waiting cmd c.machine t p hcmd stands hs
  | accepted =>
    rw [own] at stands
    have busy : c.machine.mode ≠ .idle := fun idle => by simp [(callDone_iff c).2 ⟨own, idle⟩] at notDone
    exact commandStands_accepted cmd c.machine t noReset stands busy hs
  | withdrawn => trivial

/-- Settles O54: the call's own synchronisation ends Idle only with the lock. -/
theorem returnedSynchronisationHoldsTheLock : Obligations.ReturnedSynchronisationHoldsTheLock := by
  intro enc c n s t hc noReset ht done
  have hcmd : callCommand enc c = .init ∨ callCommand enc c = .sync := hc.imp (congrArg _) (congrArg _)
  have start : SyncCallInv (callCommand enc c) (callStart enc c s) :=
    ⟨noReset, by simp [callStart, CommandStands]⟩
  have inv := callWait_keeps (SyncCallInv (callCommand enc c)) (syncCallInv_step _ hcmd) n _ t start ht
  obtain ⟨own, idle⟩ := (callDone_iff t).1 done
  have stands := inv.stands
  rw [own] at stands
  rcases stands with ⟨syncing, -⟩ | ⟨-, lock⟩
  · simp [idle] at syncing
  · exact lock

/-! ### The sentinel (R142, R144) -/

theorem selectedAmong_append (ps qs : List Nat) (b : BitVec 8) :
    selectedAmong (ps ++ qs) b = selectedAmong ps b + selectedAmong qs b := by
  simp [selectedAmong]

theorem selectedAmong_perm (ps qs : List Nat) (b : BitVec 8) (h : List.Perm ps qs) :
    selectedAmong ps b = selectedAmong qs b := (h.filter _).length_eq

/-- The positions of the two axes are the eight bits of the byte (R143). -/
theorem length_filter_byteBits (b : BitVec 8) :
    ((byteBits b).filter fun v => !v).length = selectedAmong rowPositions b + selectedAmong columnPositions b := by
  have travel : ((byteBits b).filter fun v => !v).length =
      selectedAmong ((List.range 8).map fun i => 7 - i) b := by
    simp [byteBits, selectedAmong, List.filter_map, Function.comp_def]
  have axes : List.Perm ((List.range 8).map fun i => 7 - i) (rowPositions ++ columnPositions) := by decide
  rw [travel, selectedAmong_perm _ _ b axes, selectedAmong_append]

/-- Settles O55: a key's byte selects one position on each axis, the sentinel all of them. -/
theorem sentinelIsWrittenButIsNoKey : Obligations.SentinelIsWrittenButIsNoKey := by
  intro enc contract
  refine ⟨fun c hc => by rw [callCommand, contract.unknown c hc], fun c hc => ?_⟩
  have key := contract.known c hc
  rw [oneHotPerAxis, Bool.and_eq_true, beq_iff_eq, beq_iff_eq] at key
  obtain ⟨row, column⟩ := key
  refine ⟨fun zero => ?_, by rw [length_filter_byteBits, row, column]⟩
  rw [zero] at row
  exact absurd row (by decide)

end Sys2Proof.Machine
end
